-- ==== Sys2Proof/Word.lean ====
section
/-!
DEFINITION. The word types of the OTPE: the 32-bit command word and host data path (R7, R90), the 8-bit byte of a
buffer or byte string (R9), the 64-bit counter, timestamp and time step (R7), the 14-bit offset of the host window
(R43).
-/

namespace Sys2Proof

/-- A 32-bit word: a command word, a register as the host sees it, the data of a bus access (R7). -/
abbrev Word := BitVec 32

/-- A byte of a buffer or of a byte string; a text holds one ASCII character per byte (R9). -/
abbrev Byte := BitVec 8

/-- A 64-bit quantity: counter, timestamp, time step (R7). -/
abbrev DWord := BitVec 64

/-- An offset in the `0x4000`-byte host window (R43). -/
abbrev Offset := BitVec 14

/-- A byte string; index 0 is the first byte (R9). -/
abbrev Bytes := List Byte

end Sys2Proof
end

