-- ==== Sys2Proof/Machine/Bytes.lean ====
section
/-!
DEFINITION. The byte-string functions of R10 (`be_bytes`, `be_int`), and the little-endian byte lanes of the host bus
(R64).
-/

namespace Sys2Proof.Machine

/-- `be_int(s)` of R10: the natural a byte string stands for, its first byte most significant. -/
def beInt (s : Bytes) : Nat := s.foldl (fun acc b => acc * 256 + b.toNat) 0

/-- `be_bytes(x, n)` of R10: the `n`-byte big-endian representation of `x` (taken modulo `2^(8n)`). -/
def beBytes (x n : Nat) : Bytes := (List.range n).map fun i => BitVec.ofNat 8 (x / 256 ^ (n - 1 - i))

/-- The byte in lane `i` of a bus word, bits `[8i+7 : 8i]` (R63, R64). -/
def lane (v : Word) (i : Nat) : Byte := v.extractLsb' (8 * i) 8

/-- The low `n` byte lanes of a bus word, lowest address first (R63). -/
def lanes (v : Word) (n : Nat) : Bytes := (List.range n).map (lane v)

/-- The bus word whose lanes are the bytes `s`, lowest address in bits `[7:0]`, higher lanes 0 (R62, R64). -/
def ofLanes (s : Bytes) : Word := BitVec.ofNat 32 (s.foldr (fun b acc => b.toNat + 256 * acc) 0)

end Sys2Proof.Machine
end

