-- ==== Sys2Proof/Syntax.lean ====
section
/-!
DEFINITION. The commands of the OTPE as syntax: one constructor per row of the opcode table (R95). A command is the
hardware's instruction (R26); its wide operands are implicit registers and buffers (R93, R94), so a constructor carries
only what the command word carries.
-/

namespace Sys2Proof

/-- The hash algorithm, field `CFG.ALG` (R30): the three digests in scope (R3). -/
inductive Alg where
  | sha1
  | sha256
  | sha512
  deriving DecidableEq, Repr

/-- The engine type, field `CFG.TYPE` (R3, R30). -/
inductive EngineType where
  | hotp
  | totp
  deriving DecidableEq, Repr

/-- The commands of R95. -/
inductive Instr where
  /-- `INIT <type>, <digits>` (R191). -/
  | init (type : EngineType) (digits : BitVec 4)
  /-- `CLEAR` (R192). -/
  | clear
  /-- `SETALG <alg>` (R193). -/
  | setalg (alg : Alg)
  /-- `SETSTEP` (R234). -/
  | setstep
  /-- `SETMAXW <n>` (R194). -/
  | setmaxw (n : BitVec 8)
  /-- `GEN`, and `GEN.D` with the flag `DEF` (R197). -/
  | gen (useDefault : Bool)
  /-- `VERIFY`, with the flags `DEF` (`.D`) and `WDEF` (`.W`) (R205). -/
  | verify (useDefault windowDefault : Bool)
  /-- `B32ENC`, with the flags `PAD` (`.P`) and `GRP` (`.G`) (R123). -/
  | b32enc (pad grp : Bool)
  /-- `B32DEC` (R124). -/
  | b32dec
  deriving DecidableEq, Repr

end Sys2Proof
end

