-- ==== Sys2Proof/WellFormed.lean ====
section
/-!
DEFINITION. Well-formed commands: the extra conditions of the rows of R95. A term that fails its condition has no
command word (R96).
-/

namespace Sys2Proof

/-- The digit count of an `INIT` word lies in `1..10` (R95, R191). -/
def digitsLegal (d : BitVec 4) : Bool := decide (1 ≤ d.toNat ∧ d.toNat ≤ 10)

/-- The extra condition of the command's row in R95. -/
def Instr.wf : Instr → Bool
  | .init _ d => digitsLegal d
  | .clear => true
  | .setalg _ => true
  | .setstep => true
  | .setmaxw n => decide (1 ≤ n.toNat)
  | .gen _ => true
  | .verify _ _ => true
  | .b32enc pad grp => !(pad && grp)
  | .b32dec => true

end Sys2Proof
end

