-- ==== Sys2Proof/Decode.lean ====
section
/-!
DEFINITION. The decoder of command words, total on every 32-bit word and rejecting by name (R90 to R97), and after it
the encoder, written from the same tables. `DecodeError` says which of R96's conditions makes a word illegal.
-/

namespace Sys2Proof

/-- Why a command word is illegal (R96). All of them are the one error `IllegalCommand` (R255). -/
inductive DecodeError where
  /-- `ZERO != 0`. -/
  | zeroField
  /-- `OP` is none of the nine opcodes. -/
  | unknownOp
  /-- A `FLAGS` bit that the command does not define is 1. -/
  | reservedFlag
  /-- An `IMM` bit that the command does not define is 1. -/
  | reservedImm
  /-- `INIT` with digits 0 or above 10. -/
  | digitCount
  /-- `SETALG` with algorithm 3. -/
  | algorithm
  /-- `SETMAXW` with 0. -/
  | zeroWindow
  /-- `B32ENC` with both `PAD` and `GRP`. -/
  | padWithGroup
  deriving DecidableEq, Repr

/-- `CFG.ALG` codes (R30, R92). -/
def Alg.code : Alg → BitVec 2
  | .sha1 => 0
  | .sha256 => 1
  | .sha512 => 2

/-- The algorithm of a 2-bit code; 3 is none (R30, R92). -/
def Alg.ofCode (c : BitVec 2) : Option Alg :=
  if c = 0 then some .sha1 else if c = 1 then some .sha256 else if c = 2 then some .sha512 else none

/-- `CFG.TYPE` codes (R30, R92). -/
def EngineType.bit : EngineType → Bool
  | .hotp => false
  | .totp => true

/-- The type of a `TYPE` bit (R30, R92). -/
def EngineType.ofBit (b : Bool) : EngineType := if b then .totp else .hotp

/-! ### Fields of a word (R90) -/

/-- `OP = w[7:0]` (R90). -/
def opField (w : Word) : Byte := w.extractLsb' 0 8

/-- `FLAGS = w[15:8]` (R90). -/
def flagsField (w : Word) : Byte := w.extractLsb' 8 8

/-- `IMM = w[23:16]` (R90). -/
def immField (w : Word) : Byte := w.extractLsb' 16 8

/-- `ZERO = w[31:24]` (R90). -/
def zeroField (w : Word) : Byte := w.extractLsb' 24 8

/-! ### Decoding, one format at a time (R91, R92) -/

/-- Format `N`: neither `FLAGS` nor `IMM` is used (R91). -/
def decodeN (i : Instr) (flags imm : Byte) : Except DecodeError Instr :=
  if flags ≠ 0 then .error .reservedFlag else if imm ≠ 0 then .error .reservedImm else .ok i

/-- `INIT`, format `FI`: `FLAGS[0]` is the type, `IMM[3:0]` the digit count (R92). -/
def decodeInit (flags imm : Byte) : Except DecodeError Instr :=
  if flags &&& 0xFE ≠ 0 then .error .reservedFlag
  else if imm &&& 0xF0 ≠ 0 then .error .reservedImm
  else if digitsLegal (imm.extractLsb' 0 4) then
    .ok (.init (EngineType.ofBit (flags.getLsbD 0)) (imm.extractLsb' 0 4))
  else .error .digitCount

/-- `SETALG`, format `I`: `IMM[1:0]` is the algorithm (R92). -/
def decodeSetalg (flags imm : Byte) : Except DecodeError Instr :=
  if flags ≠ 0 then .error .reservedFlag
  else if imm &&& 0xFC ≠ 0 then .error .reservedImm
  else match Alg.ofCode (imm.extractLsb' 0 2) with
    | some a => .ok (.setalg a)
    | none => .error .algorithm

/-- `SETMAXW`, format `I`: `IMM` is the new maximum window (R92). -/
def decodeSetmaxw (flags imm : Byte) : Except DecodeError Instr :=
  if flags ≠ 0 then .error .reservedFlag
  else if imm = 0 then .error .zeroWindow
  else .ok (.setmaxw imm)

/-- `GEN`, format `F`: `FLAGS[0]` is `DEF` (R92). -/
def decodeGen (flags imm : Byte) : Except DecodeError Instr :=
  if flags &&& 0xFE ≠ 0 then .error .reservedFlag
  else if imm ≠ 0 then .error .reservedImm
  else .ok (.gen (flags.getLsbD 0))

/-- `VERIFY`, format `F`: `FLAGS[0]` is `DEF`, `FLAGS[1]` is `WDEF` (R92). -/
def decodeVerify (flags imm : Byte) : Except DecodeError Instr :=
  if flags &&& 0xFC ≠ 0 then .error .reservedFlag
  else if imm ≠ 0 then .error .reservedImm
  else .ok (.verify (flags.getLsbD 0) (flags.getLsbD 1))

/-- `B32ENC`, format `F`: `FLAGS[0]` is `PAD`, `FLAGS[1]` is `GRP`, never both 1 (R92, R95). -/
def decodeB32enc (flags imm : Byte) : Except DecodeError Instr :=
  if flags &&& 0xFC ≠ 0 then .error .reservedFlag
  else if imm ≠ 0 then .error .reservedImm
  else if flags.getLsbD 0 && flags.getLsbD 1 then .error .padWithGroup
  else .ok (.b32enc (flags.getLsbD 0) (flags.getLsbD 1))

/-- The opcode map of R95, applied to the three fields a command may use. -/
def decodeOp (op flags imm : Byte) : Except DecodeError Instr :=
  if op = 0x01 then decodeInit flags imm
  else if op = 0x02 then decodeN .clear flags imm
  else if op = 0x03 then decodeSetalg flags imm
  else if op = 0x04 then decodeN .setstep flags imm
  else if op = 0x05 then decodeSetmaxw flags imm
  else if op = 0x10 then decodeGen flags imm
  else if op = 0x11 then decodeVerify flags imm
  else if op = 0x20 then decodeB32enc flags imm
  else if op = 0x21 then decodeN .b32dec flags imm
  else .error .unknownOp

/-- The command a word stands for, or why it is illegal (R96). -/
def decode (w : Word) : Except DecodeError Instr :=
  if zeroField w ≠ 0 then .error .zeroField else decodeOp (opField w) (flagsField w) (immField w)

/-! ### The opcode table as masks and patterns (R95) -/

/-- A row of the table of R95: a word `w` is an instance iff `w AND mask = pat` and the extra condition holds. -/
structure TableRow where
  mnemonic : String
  pat : Word
  mask : Word
  cond : Word → Bool

/-- The nine rows of R95. -/
def opcodeTable : List TableRow :=
  [ ⟨"INIT", 0x00000001, 0xFFF0FEFF, fun w => digitsLegal (w.extractLsb' 16 4)⟩,
    ⟨"CLEAR", 0x00000002, 0xFFFFFFFF, fun _ => true⟩,
    ⟨"SETALG", 0x00000003, 0xFFFCFFFF, fun w => decide ((w.extractLsb' 16 2).toNat ≤ 2)⟩,
    ⟨"SETSTEP", 0x00000004, 0xFFFFFFFF, fun _ => true⟩,
    ⟨"SETMAXW", 0x00000005, 0xFF00FFFF, fun w => decide (1 ≤ (w.extractLsb' 16 8).toNat)⟩,
    ⟨"GEN", 0x00000010, 0xFFFFFEFF, fun _ => true⟩,
    ⟨"VERIFY", 0x00000011, 0xFFFFFCFF, fun _ => true⟩,
    ⟨"B32ENC", 0x00000020, 0xFFFFFCFF, fun w => !(w.getLsbD 8 && w.getLsbD 9)⟩,
    ⟨"B32DEC", 0x00000021, 0xFFFFFFFF, fun _ => true⟩ ]

/-- A word is an instance of the row (R95). -/
def TableRow.accepts (r : TableRow) (w : Word) : Bool := decide (w &&& r.mask = r.pat) && r.cond w

/-- A word is one of the 290 legal words of R95. -/
def legalWord (w : Word) : Bool := opcodeTable.any fun r => r.accepts w

/-! ### The host's numbering of a word -/

/-- The 32-bit word whose low `nbits` bits are those of `w` and whose other bits are 0. -/
def tableWord (nbits w : Nat) : Word := BitVec.ofNat 32 (w % 2 ^ nbits)

/-- The instruction the decoder reads from the word of `nbits` bits numbered `w` (`none` where it refuses). -/
def decodeTableWord (nbits w : Nat) : Option Instr :=
  match decode (tableWord nbits w) with
  | .ok i => some i
  | .error _ => none

/-! ### Encoding (R90, R92, R95) -/

/-- The word with the fields `OP`, `FLAGS`, `IMM` and `ZERO = 0x00` (R90). -/
def assemble (op flags imm : Byte) : Word := (0#8 ++ imm) ++ (flags ++ op)

/-- A `FLAGS` byte whose bits 0 and 1 are the two flags and whose other bits are 0 (R92). -/
def flagsOf (bit0 bit1 : Bool) : Byte := 0#6 ++ (BitVec.ofBool bit1 ++ BitVec.ofBool bit0)

/-- The opcode of a command (R95). -/
def Instr.opcode : Instr → Byte
  | .init _ _ => 0x01
  | .clear => 0x02
  | .setalg _ => 0x03
  | .setstep => 0x04
  | .setmaxw _ => 0x05
  | .gen _ => 0x10
  | .verify _ _ => 0x11
  | .b32enc _ _ => 0x20
  | .b32dec => 0x21

/-- The mnemonic of a command, as the table of R95 spells it. -/
def Instr.mnemonic : Instr → String
  | .init _ _ => "INIT"
  | .clear => "CLEAR"
  | .setalg _ => "SETALG"
  | .setstep => "SETSTEP"
  | .setmaxw _ => "SETMAXW"
  | .gen _ => "GEN"
  | .verify _ _ => "VERIFY"
  | .b32enc _ _ => "B32ENC"
  | .b32dec => "B32DEC"

/-- The `FLAGS` byte of a command (R92). -/
def Instr.flags : Instr → Byte
  | .init t _ => flagsOf t.bit false
  | .clear => 0
  | .setalg _ => 0
  | .setstep => 0
  | .setmaxw _ => 0
  | .gen d => flagsOf d false
  | .verify d wd => flagsOf d wd
  | .b32enc p g => flagsOf p g
  | .b32dec => 0

/-- The `IMM` byte of a command (R92). -/
def Instr.imm : Instr → Byte
  | .init _ d => d.setWidth 8
  | .clear => 0
  | .setalg a => a.code.setWidth 8
  | .setstep => 0
  | .setmaxw n => n
  | .gen _ => 0
  | .verify _ _ => 0
  | .b32enc _ _ => 0
  | .b32dec => 0

/-- The command word of a well-formed command (R95, R98). -/
def encode (i : Instr) : Word := assemble i.opcode i.flags i.imm

end Sys2Proof
end

