-- ==== Sys2Proof/Config.lean ====
section
/-!
DEFINITION. What an implementation of the OTPE fixes: the one free parameter `SECRET_MAX` and the size `TEXT_MAX`
derived from it (R6), and the fixed layout of the host window (R60). The spec leaves no value of the machine undefined
(R46, R97), so there is no opaque free value here.
-/

namespace Sys2Proof

/-- The implementation parameter of R6. A machine is built with one value of it; no step changes it. -/
structure Params where
  /-- `SECRET_MAX`, the capacity of the `SECRET` buffer in bytes. -/
  secretMax : Nat
  deriving DecidableEq, Repr

/-- `TEXT_MAX = 2 * SECRET_MAX + 8`, the capacity of the `TEXT` buffer in bytes (R6). -/
def Params.textMax (p : Params) : Nat := 2 * p.secretMax + 8

/-- The legal values of the parameter: a multiple of 4 with `64 <= SECRET_MAX <= 2048` (R6). -/
abbrev Params.Legal (p : Params) : Prop := 64 ≤ p.secretMax ∧ p.secretMax ≤ 2048 ∧ p.secretMax % 4 = 0

/-- The default parameter, `SECRET_MAX = 256` (R6). -/
def Params.standard : Params := { secretMax := 256 }

/-- First offset of the `CAND` buffer (R60). -/
def Config.candBase : Nat := 0x060

/-- First offset of the `CODE` buffer (R60). -/
def Config.codeBase : Nat := 0x070

/-- First offset of the `SECRET` buffer (R60). -/
def Config.secretBase : Nat := 0x1000

/-- First offset of the `TEXT` buffer (R60). -/
def Config.textBase : Nat := 0x2000

/-- Capacity of the `CAND` buffer in bytes (R7, R41). -/
def Config.candMax : Nat := 16

/-- Capacity of the `CODE` buffer in bytes (R7, R42). -/
def Config.codeMax : Nat := 16

end Sys2Proof
end

