-- ==== Sys2Proof/Machine/State.lean ====
section
/-!
DEFINITION. The architectural state of the OTPE (R20), its reset values (R46), the outcomes of a host access (R61), the
command error kinds (R251), and the turns of the three agents that act on the state (R8). State is plain data.
-/

namespace Sys2Proof.Machine

/-- The engine's buffers as one sparse memory: bytes keyed by their offset in the host window (R60), addresses strictly
rising, no entry equal to 0, the value an unlisted byte reads as (every buffer byte is 0 at reset, R46). -/
abbrev Memory := List Host.Cell

/-- The canonical form of `Memory`. -/
abbrev Memory.wf (m : Memory) : Prop := m.Pairwise (fun c d => c.1 < d.1) ∧ ∀ c ∈ m, c.2 ≠ 0#8

/-- What an unlisted byte reads as: its reset value (R46). -/
def Memory.unlisted : Byte := 0#8

/-- The answer of the bus port to one host access (R61). -/
inductive BusReply where
  /-- No access has been answered since reset. -/
  | none
  /-- A read with outcome `OK` and its data, the lowest address in bits `[7:0]` (R62). -/
  | data (v : Word)
  /-- A write with outcome `OK` (R63). -/
  | written
  /-- Outcome `ERR`: the access was refused and had no effect; an `ERR` read has no data (R61, R259). -/
  | err
  deriving DecidableEq, Repr

/-- One turn of one of the three agents of R8, in the one total order of R73. -/
inductive Turn where
  /-- The engine: `Complete` if a command is in flight, else nothing is enabled (R262, R286). -/
  | engine
  /-- The host reads `n` bytes at offset `a` (R61). -/
  | read (a : Offset) (n : Nat)
  /-- The host writes the low `n` bytes of `v` at offset `a` (R61), while the environment drives `time_in = t` (R231). -/
  | write (a : Offset) (n : Nat) (v : Word) (t : DWord)
  /-- The reset input `rst` is driven to this level (R280). -/
  | rst (level : Bool)
  deriving DecidableEq, Repr

/-- The error kinds that a command can end with (R251). -/
inductive ErrKind where
  /-- `InvalidBase32Secret` (R252). -/
  | invalidBase32Secret
  /-- `InvalidProvisioningUri`: reserved, raised by no command (R253). -/
  | invalidProvisioningUri
  /-- `InvalidTimeStep` (R254). -/
  | invalidTimeStep
  /-- `IllegalCommand` (R255). -/
  | illegalCommand
  /-- `NotPermitted` (R256). -/
  | notPermitted
  /-- `LengthError` (R257). -/
  | lengthError
  deriving DecidableEq, Repr

/-- The state of the machine: every row of R20, the parameter of R6, and three fields of the model's own (`rst`, `agenda`,
`reply`). Fields whose bits a register displays are stored once; the register words are computed in `Machine/Flags.lean`. -/
structure State where
  /-- The implementation parameter `SECRET_MAX` (R6), constant along every run. -/
  par : Params
  /-- `PHASE`, `STATUS.READY`: false EMPTY, true READY (R27). -/
  ready : Bool
  /-- `STATUS.BUSY`: a command is in flight (R27). -/
  busy : Bool
  /-- `STATUS.MATCH`: result of the last completed `VERIFY` (R27). -/
  matched : Bool
  /-- `STATUS.ERR`: error code of the last completed command (R27, R251). -/
  err : BitVec 8
  /-- `INTSTAT`: bit 0 `DONE`, bit 1 `ERR`, sticky (R28). -/
  intstat : BitVec 2
  /-- `INTEN`: bit 0 `DONE`, bit 1 `ERR`, the interrupt enables (R29). -/
  inten : BitVec 2
  /-- `CFG.ALG` (R30). -/
  alg : Alg
  /-- `CFG.TYPE` (R30). -/
  typ : EngineType
  /-- `CFG.DIGITS` (R30). -/
  digits : BitVec 4
  /-- `CFG.MAXWIN` (R30). -/
  maxwin : BitVec 8
  /-- `STEP`, the time step in seconds (R34). -/
  timeStep : BitVec 64
  /-- `SEQ`, the HOTP sequence value (R24). -/
  seq : BitVec 64
  /-- `OPA`, the counter, timestamp or new time step (R22). -/
  opa : BitVec 64
  /-- `WINDOW`, the requested window, two's complement (R23). -/
  window : BitVec 32
  /-- `SLEN`, length of the secret (R35). -/
  slen : BitVec 16
  /-- `TLEN`, length of the text (R36). -/
  tlen : BitVec 16
  /-- `CLEN`, length of the candidate (R37). -/
  clen : BitVec 8
  /-- `CODELEN`, number of valid bytes of `CODE` (R38). -/
  codelen : BitVec 5
  /-- The buffers `SECRET`, `TEXT`, `CAND` and `CODE` (R39 to R42). -/
  mem : Memory
  /-- `PENDING`: the command word in flight, or none (R44). -/
  pending : Option Word
  /-- `TSAMP`: `time_in` as sampled when the last `CMD` write was accepted (R44). -/
  tsamp : BitVec 64
  /-- MODEL'S OWN: the level of the reset input `rst` (R280); host accesses are refused while it is asserted (R282). -/
  rst : Bool
  /-- MODEL'S OWN: the turns still to be taken, in order (R8, R73); when it is empty the engine has the turn. -/
  agenda : List Turn
  /-- MODEL'S OWN: the outcome of the last host access, as the bus port shows it (R61). -/
  reply : BusReply
  deriving DecidableEq, Repr

/-- Reasons for which the machine stops. The spec gives the hardware no stop of its own (R101, R265). -/
inductive Fault where
  /-- Raised by the engine's turn in a state with `BUSY = 1` and no word in `PENDING`. The spec gives no meaning to such a
  state and rules it out (R44, R48); no reachable state has it. Safe. -/
  | noPendingWord
  deriving DecidableEq, Repr

/-- Reasons for which a step has no meaning. -/
inductive Refusal where
  /-- Raised by `exec` for an instruction that has no meaning yet; no arm does so. Safe. -/
  | notModelled (mnemonic : String)
  deriving DecidableEq, Repr

/-- The outcome of a step or of a command. -/
abbrev StepResult := Host.Outcome State Fault Refusal

/-- `s0(SECRET_MAX)`: the state after reset of a machine built with the parameter `p` (R46, R280). -/
def State.resetWith (p : Params) : State :=
  { par := p
    ready := false
    busy := false
    matched := false
    err := 0
    intstat := 0
    inten := 0
    alg := .sha1
    typ := .hotp
    digits := 6
    maxwin := 1
    timeStep := 30
    seq := 0
    opa := 0
    window := 1
    slen := 0
    tlen := 0
    clen := 0
    codelen := 0
    mem := []
    pending := none
    tsamp := 0
    rst := false
    agenda := []
    reply := .none }

/-- The state right after reset, with the default parameter `SECRET_MAX = 256` (R6, R46). -/
def State.reset : State := State.resetWith Params.standard

end Sys2Proof.Machine
end

