-- ==== Sys2Proof/Machine/Flags.lean ====
section
/-!
DEFINITION. Flags and register words: the error codes (R251), the event bits a completion sets (R262), the words of the
read-only registers `ID`, `CAP`, `STATUS`, `CFG` (R27, R30, R31, R32) and the interrupt output (R261). Reserved bits of
every word read 0 (R47).
-/

namespace Sys2Proof.Machine

/-- The code recorded in `STATUS.ERR` (R251). -/
def ErrKind.code : ErrKind → Byte
  | .invalidBase32Secret => 0x01
  | .invalidProvisioningUri => 0x02
  | .invalidTimeStep => 0x03
  | .illegalCommand => 0x10
  | .notPermitted => 0x11
  | .lengthError => 0x12

/-- The code of a successful completion (R251). -/
def noError : Byte := 0x00

/-- The `INTSTAT` bits that a completion with code `e` sets: `DONE`, and `ERR` when `e != 0` (R28, R262). -/
def completionEvents (e : Byte) : BitVec 2 := if e = noError then 0b01 else 0b11

/-- `INTSTAT` after a host write of `v`: exactly the bits written as 1 are cleared (R28). -/
def clearEvents (events : BitVec 2) (v : Word) : BitVec 2 := events &&& ~~~(v.setWidth 2)

/-- The constant of the `ID` register (R31). -/
def idWord : Word := 0x4F545045

/-- The `CAP` register: `SECRET_MAX` in bits `[15:0]`, `TEXT_MAX` in bits `[31:16]` (R32). -/
def capWord (p : Params) : Word := BitVec.ofNat 16 p.textMax ++ BitVec.ofNat 16 p.secretMax

/-- The `STATUS` register (R27). -/
def statusWord (s : State) : Word :=
  (0#16 ++ s.err) ++ (((0#5 ++ BitVec.ofBool s.matched) ++ BitVec.ofBool s.ready) ++ BitVec.ofBool s.busy)

/-- The `CFG` register (R30). -/
def cfgWord (s : State) : Word :=
  ((0#8 ++ s.maxwin) ++ (0#4 ++ s.digits)) ++ ((0#3 ++ BitVec.ofBool s.typ.bit) ++ (0#2 ++ s.alg.code))

/-- The interrupt output `irq` (R261). -/
def irq (s : State) : Bool :=
  (s.intstat.getLsbD 0 && s.inten.getLsbD 0) || (s.intstat.getLsbD 1 && s.inten.getLsbD 1)

end Sys2Proof.Machine
end

