-- ==== Sys2Proof/Machine/Ops.lean ====
section
/-!
DEFINITION. The named operations over memory and registers: reading and writing buffer bytes, the buffers of the engine
(R39 to R42), the completion of a command (R262) with its two forms `succeed` and `raiseError` (this hardware's
exception: R250, R262, R263), the zeroising of `CLEAR` (R192), and the reset input (R280). There is no return from an
error (R264): after a completion the engine is idle.
-/

namespace Sys2Proof.Machine

/-! ### Bytes of memory -/

/-- The byte at offset `a`. -/
def Memory.read : Memory → Nat → Byte
  | [], _ => Memory.unlisted
  | c :: m, a => if c.1 = a then c.2 else Memory.read m a

/-- `m` without an entry for offset `a`. -/
def Memory.erase (m : Memory) (a : Nat) : Memory := m.filter fun c => decide (c.1 ≠ a)

/-- `m` with an entry for offset `a` in its place by address. -/
def Memory.insert : Memory → Nat → Byte → Memory
  | [], a, b => [(a, b)]
  | c :: m, a, b => if c.1 < a then c :: Memory.insert m a b else (a, b) :: c :: m

/-- `m` with the byte `b` at offset `a`, in canonical form: a byte equal to `unlisted` has no entry. -/
def Memory.write (m : Memory) (a : Nat) (b : Byte) : Memory :=
  if b = Memory.unlisted then m.erase a else (m.erase a).insert a b

/-- The `n` bytes from offset `a` on, lowest first. -/
def Memory.readBytes (m : Memory) (a n : Nat) : Bytes := (List.range n).map fun i => m.read (a + i)

/-- `m` with the bytes `bs` written from offset `a` on, the first at `a`. -/
def Memory.writeBytes : Memory → Nat → Bytes → Memory
  | m, _, [] => m
  | m, a, b :: bs => Memory.writeBytes (m.write a b) (a + 1) bs

/-! ### The four buffers -/

/-- The buffers of R20. -/
inductive Buf where
  | secret
  | text
  | cand
  | code
  deriving DecidableEq, Repr

/-- First offset of a buffer (R60). -/
def Buf.base : Buf → Nat
  | .secret => Config.secretBase
  | .text => Config.textBase
  | .cand => Config.candBase
  | .code => Config.codeBase

/-- Capacity of a buffer in bytes (R20). -/
def Buf.cap (p : Params) : Buf → Nat
  | .secret => p.secretMax
  | .text => p.textMax
  | .cand => Config.candMax
  | .code => Config.codeMax

/-- The bytes `bs` followed by zero bytes, cut at `n` bytes: the whole contents of a buffer of `n` bytes. -/
def fit (n : Nat) (bs : Bytes) : Bytes := (bs ++ List.replicate (n - bs.length) 0#8).take n

/-- Byte `i` of a buffer. -/
def State.bufByte (s : State) (b : Buf) (i : Nat) : Byte := s.mem.read (b.base + i)

/-- The first `n` bytes of a buffer (R72). -/
def State.bufBytes (s : State) (b : Buf) (n : Nat) : Bytes := s.mem.readBytes b.base n

/-- The whole of a buffer becomes `bs` followed by zero bytes (R123, R124, R197). -/
def State.fillBuf (s : State) (b : Buf) (bs : Bytes) : State :=
  { s with mem := s.mem.writeBytes b.base (fit (b.cap s.par) bs) }

/-! ### Completion and errors (R262) -/

/-- The writes that every completion makes, with the code `e` (R262); `PENDING` becomes none (R44). -/
def State.complete (s : State) (e : Byte) : State :=
  { s with err := e, busy := false, pending := none, intstat := s.intstat ||| completionEvents e }

/-- A command succeeds: `s` is the state with its write-set applied (R262). -/
def succeed (s : State) : StepResult := .next (s.complete noError)

/-- A command ends with an error: none of its writes is applied and the code is recorded (R250, R262, R263). -/
def raiseError (e : ErrKind) (s : State) : StepResult := .next (s.complete e.code)

/-- The completion of a word that is no command: `IllegalCommand` and no other effect (R96, R255). -/
def completeIllegal (s : State) : StepResult := raiseError .illegalCommand s

/-- The command word the engine completes: `PENDING` (R44, R76). -/
def State.commandWord (s : State) : Option Word := s.pending

/-! ### Zeroising and reset -/

/-- The writes of `CLEAR` (R192): every piece of state takes its reset value but `INTEN`, `INTSTAT`, `TSAMP` and the
fields that the completion writes. -/
def State.zeroize (s : State) : State :=
  { State.resetWith s.par with
    inten := s.inten
    intstat := s.intstat
    tsamp := s.tsamp
    busy := s.busy
    err := s.err
    pending := s.pending
    rst := s.rst
    agenda := s.agenda
    reply := s.reply }

/-- The reset input takes a level. While it is asserted, and at the moment it is released, every piece of state has its reset
value (R280), so a command in flight is discarded (R282); an input that stays low changes nothing. The turns still to be taken
are not state of the engine and stay. -/
def State.driveReset (s : State) (level : Bool) : State :=
  if level || s.rst then { State.resetWith s.par with rst := level, agenda := s.agenda } else s

end Sys2Proof.Machine
end

