-- ==== Sys2Proof/Machine/Bus.lean ====
section
/-!
DEFINITION. The host bus: the address map (R60), the complete list of refusal conditions (R68, R69, R70, R282), the
accesses `MemRead` (R62) and `MemWrite` (R63), the issue of a command (R71), and the host's turns.
-/

namespace Sys2Proof.Machine

/-! ### The address map (R60) -/

/-- The registers of the register region (R60). -/
inductive Reg where
  | id
  | cap
  | cmd
  | status
  | intstat
  | inten
  | cfg
  | opaLo
  | opaHi
  | window
  | stepLo
  | stepHi
  | seqLo
  | seqHi
  | slen
  | tlen
  | clen
  | codelen
  deriving DecidableEq, Repr

/-- What stands at an offset (R60). -/
inductive Target where
  | reg (r : Reg)
  | buf (b : Buf)
  | unmapped
  deriving DecidableEq, Repr

/-- The register at a word offset of the register region (R60). -/
def regAt (a : Nat) : Option Reg :=
  match a with
  | 0x000 => some .id
  | 0x004 => some .cap
  | 0x008 => some .cmd
  | 0x00C => some .status
  | 0x010 => some .intstat
  | 0x014 => some .inten
  | 0x018 => some .cfg
  | 0x020 => some .opaLo
  | 0x024 => some .opaHi
  | 0x028 => some .window
  | 0x030 => some .stepLo
  | 0x034 => some .stepHi
  | 0x038 => some .seqLo
  | 0x03C => some .seqHi
  | 0x040 => some .slen
  | 0x044 => some .tlen
  | 0x048 => some .clen
  | 0x04C => some .codelen
  | _ => none

/-- Offset `a` lies in the buffer `b` (R60). -/
def Buf.contains (p : Params) (b : Buf) (a : Nat) : Bool := decide (b.base ≤ a ∧ a < b.base + b.cap p)

/-- The buffer that holds offset `a` (R60). -/
def bufAt (p : Params) (a : Nat) : Option Buf := [Buf.cand, Buf.code, Buf.secret, Buf.text].find? fun b => b.contains p a

/-- The map of R60. A register occupies the 4 bytes of its word offset. -/
def locate (p : Params) (a : Nat) : Target :=
  match regAt (a / 4 * 4) with
  | some r => .reg r
  | none => match bufAt p a with
    | some b => .buf b
    | none => .unmapped

/-! ### Refusals (R68) -/

/-- Locations that are read-only to the host (R68 item 4). -/
def readOnly : Target → Bool
  | .reg .id => true
  | .reg .cap => true
  | .reg .status => true
  | .reg .cfg => true
  | .reg .stepLo => true
  | .reg .stepHi => true
  | .reg .codelen => true
  | .buf .code => true
  | _ => false

/-- Locations that are locked against writes in phase READY (R68 item 5, R70). -/
def secretLocked : Target → Bool
  | .reg .slen => true
  | .buf .secret => true
  | _ => false

/-- The status group: the accesses that are served while `BUSY` (R69). -/
def busyAllowed (isWrite : Bool) : Target → Bool
  | .reg .id => !isWrite
  | .reg .cap => !isWrite
  | .reg .status => !isWrite
  | .reg .intstat => true
  | .reg .inten => true
  | _ => false

/-- An access of `n` bytes at offset `a` is refused: the six conditions of R68 in their order, and the asserted reset input
of R282. -/
def refused (s : State) (isWrite : Bool) (a : Offset) (n : Nat) : Bool :=
  let tgt := locate s.par a.toNat
  decide (¬ (n = 1 ∨ n = 2 ∨ n = 4) ∨ a.toNat % n ≠ 0)
    || decide (tgt = .unmapped)
    || decide (a.toNat < 0x060 ∧ n ≠ 4)
    || (isWrite && readOnly tgt)
    || (isWrite && s.ready && secretLocked tgt)
    || (s.busy && !busyAllowed isWrite tgt)
    || s.rst

/-! ### Reads (R62) -/

/-- Bits `[31:0]` of a 64-bit register, as the host reads them at `X_LO` (R62). -/
def loWord (x : DWord) : Word := x.extractLsb' 0 32

/-- Bits `[63:32]` of a 64-bit register, as the host reads them at `X_HI` (R62). -/
def hiWord (x : DWord) : Word := x.extractLsb' 32 32

/-- The value that a read of a register gives; reserved bits are 0 and `CMD` reads 0 (R33, R47, R62). -/
def regRead (s : State) : Reg → Word
  | .id => idWord
  | .cap => capWord s.par
  | .cmd => 0
  | .status => statusWord s
  | .intstat => s.intstat.setWidth 32
  | .inten => s.inten.setWidth 32
  | .cfg => cfgWord s
  | .opaLo => loWord s.opa
  | .opaHi => hiWord s.opa
  | .window => s.window
  | .stepLo => loWord s.timeStep
  | .stepHi => hiWord s.timeStep
  | .seqLo => loWord s.seq
  | .seqHi => hiWord s.seq
  | .slen => s.slen.setWidth 32
  | .tlen => s.tlen.setWidth 32
  | .clen => s.clen.setWidth 32
  | .codelen => s.codelen.setWidth 32

/-- `MemRead(a, n)` (R62): the data of an accepted read, `none` for the outcome `ERR`. -/
def memRead (s : State) (a : Offset) (n : Nat) : Option Word :=
  if refused s false a n then none
  else match locate s.par a.toNat with
    | .reg r => some (regRead s r)
    | .buf _ => some (ofLanes (s.mem.readBytes a.toNat n))
    | .unmapped => none

/-! ### Writes (R63) -/

/-- A 64-bit register with bits `[31:0]` replaced (R63). -/
def setLo (x : DWord) (v : Word) : DWord := hiWord x ++ v

/-- A 64-bit register with bits `[63:32]` replaced (R63). -/
def setHi (x : DWord) (v : Word) : DWord := v ++ loWord x

/-- An accepted write of `CMD`: the word and the time are latched and the engine is busy, nothing else (R71). -/
def State.issue (s : State) (v : Word) (t : DWord) : State := { s with pending := some v, tsamp := t, busy := true }

/-- The effect of an accepted write of a register (R63); `none` for a register that the host cannot write. -/
def regWrite (s : State) (v : Word) (t : DWord) : Reg → Option State
  | .id => none
  | .cap => none
  | .cmd => some (s.issue v t)
  | .status => none
  | .intstat => some { s with intstat := clearEvents s.intstat v }
  | .inten => some { s with inten := v.setWidth 2 }
  | .cfg => none
  | .opaLo => some { s with opa := setLo s.opa v }
  | .opaHi => some { s with opa := setHi s.opa v }
  | .window => some { s with window := v }
  | .stepLo => none
  | .stepHi => none
  | .seqLo => some { s with seq := setLo s.seq v }
  | .seqHi => some { s with seq := setHi s.seq v }
  | .slen => some { s with slen := v.setWidth 16 }
  | .tlen => some { s with tlen := v.setWidth 16 }
  | .clen => some { s with clen := v.setWidth 8 }
  | .codelen => none

/-- `MemWrite(a, n, v)` while `time_in = t` (R63, R71): the state after an accepted write, `none` for the outcome `ERR`. -/
def memWrite (s : State) (a : Offset) (n : Nat) (v : Word) (t : DWord) : Option State :=
  if refused s true a n then none
  else match locate s.par a.toNat with
    | .reg r => regWrite s v t r
    | .buf _ => some { s with mem := s.mem.writeBytes a.toNat (lanes v n) }
    | .unmapped => none

/-! ### The host's turns -/

/-- The host's read: no state of the engine changes, the port shows the outcome (R61, R62). -/
def hostRead (s : State) (a : Offset) (n : Nat) : State :=
  match memRead s a n with
  | some v => { s with reply := .data v }
  | none => { s with reply := .err }

/-- The host's write: a refused one changes no state of the engine, the port shows the outcome (R61, R63). -/
def hostWrite (s : State) (a : Offset) (n : Nat) (v : Word) (t : DWord) : State :=
  match memWrite s a n v t with
  | some s' => { s' with reply := .written }
  | none => { s with reply := .err }

end Sys2Proof.Machine
end

