-- ==== Sys2Proof/Machine/Base32.lean ====
section
/-!
DEFINITION. The Base32 codec as pure functions (R110 to R119). Text is one ASCII character per byte.
-/

namespace Sys2Proof.Machine

/-- The character `=` (R114). -/
def padChar : Byte := 0x3D

/-- The space character (R115). -/
def spaceChar : Byte := 0x20

/-- `Alpha(v)`: the character of the 5-bit value `v` (R110). -/
def alpha (v : Nat) : Byte := if v ≤ 25 then BitVec.ofNat 8 (0x41 + v) else BitVec.ofNat 8 (0x32 + (v - 26))

/-- A byte is in the alphabet `A`-`Z`, `2`-`7` (R111). -/
def inAlphabet (c : Byte) : Bool := decide (0x41 ≤ c.toNat ∧ c.toNat ≤ 0x5A) || decide (0x32 ≤ c.toNat ∧ c.toNat ≤ 0x37)

/-- `Val(c)`, the inverse of `Alpha` on the alphabet (R111). -/
def val (c : Byte) : Nat := if 0x41 ≤ c.toNat then c.toNat - 0x41 else c.toNat - 0x32 + 26

/-! ### Encoding -/

/-- `ceil(8n/5)`, the number of characters for `n` bytes (R113). -/
def charCount (n : Nat) : Nat := (8 * n + 4) / 5

/-- `B32Chars(b)` (R112), by the rule's equation for character `i`. -/
def b32Chars (b : Bytes) : Bytes :=
  let c := charCount b.length
  let v := beInt b * 2 ^ (5 * c - 8 * b.length)
  (List.range c).map fun i => alpha (v / 32 ^ (c - 1 - i) % 32)

/-- `Pad(t)` (R114). -/
def padText (t : Bytes) : Bytes := t ++ List.replicate ((8 - t.length % 8) % 8) padChar

/-- `Group(t)` (R115): a space after every 4th character except at the end. -/
def groupText : Bytes → Bytes
  | a :: b :: c :: d :: e :: rest => a :: b :: c :: d :: spaceChar :: groupText (e :: rest)
  | t => t

/-- The three output forms that have a definition (R116). -/
inductive TextForm where
  /-- `PAD = 0, GRP = 0`. -/
  | plain
  /-- `PAD = 1, GRP = 0`. -/
  | padded
  /-- `PAD = 0, GRP = 1`. -/
  | grouped
  deriving DecidableEq, Repr

/-- The output form of a pair of flags; `PAD = GRP = 1` has none (R96, R116). -/
def textForm (pad grp : Bool) : Option TextForm :=
  match pad, grp with
  | false, false => some .plain
  | true, false => some .padded
  | false, true => some .grouped
  | true, true => none

/-- `B32Encode(b, pad, grp)` for the three defined forms (R116). -/
def b32Encode (form : TextForm) (b : Bytes) : Bytes :=
  match form with
  | .plain => b32Chars b
  | .padded => padText (b32Chars b)
  | .grouped => groupText (b32Chars b)

/-! ### Decoding -/

/-- Step 1 of R117: every `=` at the end of the text is removed. -/
def stripPad (t : Bytes) : Bytes := (t.reverse.dropWhile (· == padChar)).reverse

/-- Step 2 of R117: `a`-`z` become `A`-`Z`. -/
def upperCase (c : Byte) : Byte := if 0x61 ≤ c.toNat ∧ c.toNat ≤ 0x7A then c - 0x20 else c

/-- Step 3 of R117: `0` becomes `O` and `1` becomes `I`. -/
def unambiguous (c : Byte) : Byte := if c = 0x30 then 0x4F else if c = 0x31 then 0x49 else c

/-- `B32Normalise(t)`: the four steps of R117 in their order; step 4 removes every space. -/
def b32Normalise (t : Bytes) : Bytes :=
  (((stripPad t).map upperCase).map unambiguous).filter (· != spaceChar)

/-- The natural that a normalised text stands for in base 32 (R119). -/
def textInt (u : Bytes) : Nat := u.foldl (fun acc c => acc * 32 + val c) 0

/-- The bytes of a valid normalised text: the `5m mod 8` trailing bits are discarded unchecked (R119). -/
def textBytes (u : Bytes) : Bytes :=
  let m := u.length
  let k := 5 * m / 8
  beBytes (textInt u / 2 ^ (5 * m - 8 * k)) k

/-- `B32Decode(t)` (R119); `none` is the error `InvalidBase32Secret` (R118). -/
def b32Decode (t : Bytes) : Option Bytes :=
  let u := b32Normalise t
  if u.all inAlphabet then some (textBytes u) else none

end Sys2Proof.Machine
end

