-- ==== Sys2Proof/Machine/Sha.lean ====
section
/-!
DEFINITION. The hash functions SHA-1, SHA-256 and SHA-512 (R140 to R162). They are functions, not commands; `HMAC` is
their only user (R170). Additions on `BitVec w` are modulo `2^w` (R140).
-/

namespace Sys2Proof.Machine

/-! ### Padding and parsing (R142, R143) -/

/-- The number of zero bytes of the padding, `(B - 1 - B/8 - len(M)) mod B` (R142). -/
def padZeros (len blk : Nat) : Nat := (blk - 1 - blk / 8 + (blk - len % blk)) % blk

/-- `PadMsg(M, B)` (R142): the message, `0x80`, zero bytes, and the bit length as `B/8` big-endian bytes. -/
def padMsg (msg : Bytes) (blk : Nat) : Bytes :=
  msg ++ [0x80#8] ++ List.replicate (padZeros msg.length blk) 0#8 ++ beBytes (8 * msg.length) (blk / 8)

/-- The first `n` blocks of `blk` bytes of a padded message, in order (R143). -/
def blocks (blk : Nat) : Nat → Bytes → List Bytes
  | 0, _ => []
  | n + 1, m => m.take blk :: blocks blk n (m.drop blk)

/-- All blocks of a padded message (R143). -/
def allBlocks (blk : Nat) (m : Bytes) : List Bytes := blocks blk (m.length / blk) m

/-- The 16 big-endian words of a block, each of `w/8` bytes (R143). -/
def blockWords (w : Nat) (b : Bytes) : List (BitVec w) :=
  (List.range 16).map fun t => BitVec.ofNat w (beInt ((b.drop (t * (w / 8))).take (w / 8)))

/-! ### Message schedule -/

/-- `W[t-k]` where `ws` holds `W[t-1], W[t-2], ..`, newest first. -/
def back {w : Nat} (ws : List (BitVec w)) (k : Nat) : BitVec w := ws.getD (k - 1) 0#w

/-- `n` further words of a schedule, each computed by `next` from the words before it, newest first. -/
def extendSchedule {w : Nat} (next : List (BitVec w) → BitVec w) : Nat → List (BitVec w) → List (BitVec w)
  | 0, ws => ws
  | n + 1, ws => extendSchedule next n (next ws :: ws)

/-- The schedule `W[0], W[1], ..` of `rounds` words whose first 16 are the block's words. -/
def schedule {w : Nat} (next : List (BitVec w) → BitVec w) (rounds : Nat) (ms : List (BitVec w)) : List (BitVec w) :=
  (extendSchedule next (rounds - 16) ms.reverse).reverse

/-! ### Functions shared by the three hashes (R144, R149, R155) -/

/-- `Ch(x,y,z)` (R144, R149, R155). -/
def ch {w : Nat} (x y z : BitVec w) : BitVec w := (x &&& y) ^^^ (~~~x &&& z)

/-- `Maj(x,y,z)` (R144, R149, R155). -/
def maj {w : Nat} (x y z : BitVec w) : BitVec w := (x &&& y) ^^^ (x &&& z) ^^^ (y &&& z)

/-- `Parity(x,y,z)` (R144). -/
def parity {w : Nat} (x y z : BitVec w) : BitVec w := x ^^^ y ^^^ z

/-! ### SHA-1 -/

/-- The SHA-1 hash value `H[0..4]`, and the working variables `a..e` (R145, R147). -/
structure Sha1Vars where
  a : Word
  b : Word
  c : Word
  d : Word
  e : Word
  deriving DecidableEq, Repr

/-- `f_t` (R144). -/
def sha1F (t : Nat) : Word → Word → Word → Word :=
  if t < 20 then ch else if t < 40 then parity else if t < 60 then maj else parity

/-- `K_t` (R144). -/
def sha1K (t : Nat) : Word :=
  if t < 20 then 0x5a827999#32 else if t < 40 then 0x6ed9eba1#32 else if t < 60 then 0x8f1bbcdc#32 else 0xca62c1d6#32

/-- The initial hash value (R145). -/
def sha1Init : Sha1Vars := ⟨0x67452301#32, 0xefcdab89#32, 0x98badcfe#32, 0x10325476#32, 0xc3d2e1f0#32⟩

/-- `W[t]` for `t >= 16` (R146). -/
def sha1Next (ws : List Word) : Word := (back ws 3 ^^^ back ws 8 ^^^ back ws 14 ^^^ back ws 16).rotateLeft 1

/-- Round `t` with the schedule word `wt` (R147). -/
def sha1Round (v : Sha1Vars) (wt : Word) (t : Nat) : Sha1Vars :=
  { a := v.a.rotateLeft 5 + sha1F t v.b v.c v.d + v.e + sha1K t + wt
    b := v.a
    c := v.b.rotateLeft 30
    d := v.c
    e := v.d }

/-- Compression of one block (R147). -/
def sha1Compress (h : Sha1Vars) (blk : Bytes) : Sha1Vars :=
  let v := (schedule sha1Next 80 (blockWords 32 blk)).zipIdx.foldl (fun v p => sha1Round v p.1 p.2) h
  { a := v.a + h.a, b := v.b + h.b, c := v.c + h.c, d := v.d + h.d, e := v.e + h.e }

/-- The digest bytes of a SHA-1 hash value (R148). -/
def sha1Digest (h : Sha1Vars) : Bytes := [h.a, h.b, h.c, h.d, h.e].flatMap fun x => beBytes x.toNat 4

/-- `SHA1(M)` (R148). -/
def sha1 (msg : Bytes) : Bytes := sha1Digest ((allBlocks 64 (padMsg msg 64)).foldl sha1Compress sha1Init)

/-! ### SHA-256 and SHA-512: one compression for both (R153, R159) -/

/-- The SHA-2 hash value `H[0..7]`, and the working variables `a..h` (R151, R153, R157, R159). -/
structure Sha2Vars (w : Nat) where
  a : BitVec w
  b : BitVec w
  c : BitVec w
  d : BitVec w
  e : BitVec w
  f : BitVec w
  g : BitVec w
  h : BitVec w
  deriving DecidableEq, Repr

/-- What distinguishes SHA-256 from SHA-512: the four sigma functions and the round constants. -/
structure Sha2Fns (w : Nat) where
  bsig0 : BitVec w → BitVec w
  bsig1 : BitVec w → BitVec w
  ssig0 : BitVec w → BitVec w
  ssig1 : BitVec w → BitVec w
  k : List (BitVec w)

/-- `W[t]` for `t >= 16` (R152, R158). -/
def sha2Next {w : Nat} (fns : Sha2Fns w) (ws : List (BitVec w)) : BitVec w :=
  fns.ssig1 (back ws 2) + back ws 7 + fns.ssig0 (back ws 15) + back ws 16

/-- One round with the schedule word `wt` and the constant `kt` (R153, R159). -/
def sha2Round {w : Nat} (fns : Sha2Fns w) (v : Sha2Vars w) (wt kt : BitVec w) : Sha2Vars w :=
  let t1 := v.h + fns.bsig1 v.e + ch v.e v.f v.g + kt + wt
  let t2 := fns.bsig0 v.a + maj v.a v.b v.c
  { a := t1 + t2, b := v.a, c := v.b, d := v.c, e := v.d + t1, f := v.e, g := v.f, h := v.g }

/-- Compression of one block (R153, R159); there are as many rounds as constants. -/
def sha2Compress {w : Nat} (fns : Sha2Fns w) (h : Sha2Vars w) (blk : Bytes) : Sha2Vars w :=
  let ws := schedule (sha2Next fns) fns.k.length (blockWords w blk)
  let v := (ws.zip fns.k).foldl (fun v p => sha2Round fns v p.1 p.2) h
  { a := v.a + h.a, b := v.b + h.b, c := v.c + h.c, d := v.d + h.d
    e := v.e + h.e, f := v.f + h.f, g := v.g + h.g, h := v.h + h.h }

/-- The digest bytes of a SHA-2 hash value (R154, R160). -/
def sha2Digest {w : Nat} (v : Sha2Vars w) : Bytes :=
  [v.a, v.b, v.c, v.d, v.e, v.f, v.g, v.h].flatMap fun x => beBytes x.toNat (w / 8)

/-! ### SHA-256 -/

/-- The round constants `K[0..63]` of SHA-256 (R150). -/
def sha256K : List Word :=
  [
   0x428a2f98#32, 0x71374491#32, 0xb5c0fbcf#32, 0xe9b5dba5#32, 0x3956c25b#32, 0x59f111f1#32, 0x923f82a4#32, 0xab1c5ed5#32,
   0xd807aa98#32, 0x12835b01#32, 0x243185be#32, 0x550c7dc3#32, 0x72be5d74#32, 0x80deb1fe#32, 0x9bdc06a7#32, 0xc19bf174#32,
   0xe49b69c1#32, 0xefbe4786#32, 0x0fc19dc6#32, 0x240ca1cc#32, 0x2de92c6f#32, 0x4a7484aa#32, 0x5cb0a9dc#32, 0x76f988da#32,
   0x983e5152#32, 0xa831c66d#32, 0xb00327c8#32, 0xbf597fc7#32, 0xc6e00bf3#32, 0xd5a79147#32, 0x06ca6351#32, 0x14292967#32,
   0x27b70a85#32, 0x2e1b2138#32, 0x4d2c6dfc#32, 0x53380d13#32, 0x650a7354#32, 0x766a0abb#32, 0x81c2c92e#32, 0x92722c85#32,
   0xa2bfe8a1#32, 0xa81a664b#32, 0xc24b8b70#32, 0xc76c51a3#32, 0xd192e819#32, 0xd6990624#32, 0xf40e3585#32, 0x106aa070#32,
   0x19a4c116#32, 0x1e376c08#32, 0x2748774c#32, 0x34b0bcb5#32, 0x391c0cb3#32, 0x4ed8aa4a#32, 0x5b9cca4f#32, 0x682e6ff3#32,
   0x748f82ee#32, 0x78a5636f#32, 0x84c87814#32, 0x8cc70208#32, 0x90befffa#32, 0xa4506ceb#32, 0xbef9a3f7#32, 0xc67178f2#32
  ]

/-- The functions of R149 with the constants of R150. -/
def sha256Fns : Sha2Fns 32 :=
  { bsig0 := fun x => x.rotateRight 2 ^^^ x.rotateRight 13 ^^^ x.rotateRight 22
    bsig1 := fun x => x.rotateRight 6 ^^^ x.rotateRight 11 ^^^ x.rotateRight 25
    ssig0 := fun x => x.rotateRight 7 ^^^ x.rotateRight 18 ^^^ (x >>> 3)
    ssig1 := fun x => x.rotateRight 17 ^^^ x.rotateRight 19 ^^^ (x >>> 10)
    k := sha256K }

/-- The initial hash value of SHA-256 (R151). -/
def sha256Init : Sha2Vars 32 :=
  ⟨0x6a09e667#32, 0xbb67ae85#32, 0x3c6ef372#32, 0xa54ff53a#32, 0x510e527f#32, 0x9b05688c#32, 0x1f83d9ab#32, 0x5be0cd19#32⟩

/-- `SHA256(M)` (R154). -/
def sha256 (msg : Bytes) : Bytes :=
  sha2Digest ((allBlocks 64 (padMsg msg 64)).foldl (sha2Compress sha256Fns) sha256Init)

/-! ### SHA-512 -/

/-- The round constants `K[0..39]` of SHA-512 (R156). -/
def sha512KLo : List DWord :=
  [
   0x428a2f98d728ae22#64, 0x7137449123ef65cd#64, 0xb5c0fbcfec4d3b2f#64, 0xe9b5dba58189dbbc#64,
   0x3956c25bf348b538#64, 0x59f111f1b605d019#64, 0x923f82a4af194f9b#64, 0xab1c5ed5da6d8118#64,
   0xd807aa98a3030242#64, 0x12835b0145706fbe#64, 0x243185be4ee4b28c#64, 0x550c7dc3d5ffb4e2#64,
   0x72be5d74f27b896f#64, 0x80deb1fe3b1696b1#64, 0x9bdc06a725c71235#64, 0xc19bf174cf692694#64,
   0xe49b69c19ef14ad2#64, 0xefbe4786384f25e3#64, 0x0fc19dc68b8cd5b5#64, 0x240ca1cc77ac9c65#64,
   0x2de92c6f592b0275#64, 0x4a7484aa6ea6e483#64, 0x5cb0a9dcbd41fbd4#64, 0x76f988da831153b5#64,
   0x983e5152ee66dfab#64, 0xa831c66d2db43210#64, 0xb00327c898fb213f#64, 0xbf597fc7beef0ee4#64,
   0xc6e00bf33da88fc2#64, 0xd5a79147930aa725#64, 0x06ca6351e003826f#64, 0x142929670a0e6e70#64,
   0x27b70a8546d22ffc#64, 0x2e1b21385c26c926#64, 0x4d2c6dfc5ac42aed#64, 0x53380d139d95b3df#64,
   0x650a73548baf63de#64, 0x766a0abb3c77b2a8#64, 0x81c2c92e47edaee6#64, 0x92722c851482353b#64
  ]

/-- The round constants `K[40..79]` of SHA-512 (R156). -/
def sha512KHi : List DWord :=
  [
   0xa2bfe8a14cf10364#64, 0xa81a664bbc423001#64, 0xc24b8b70d0f89791#64, 0xc76c51a30654be30#64,
   0xd192e819d6ef5218#64, 0xd69906245565a910#64, 0xf40e35855771202a#64, 0x106aa07032bbd1b8#64,
   0x19a4c116b8d2d0c8#64, 0x1e376c085141ab53#64, 0x2748774cdf8eeb99#64, 0x34b0bcb5e19b48a8#64,
   0x391c0cb3c5c95a63#64, 0x4ed8aa4ae3418acb#64, 0x5b9cca4f7763e373#64, 0x682e6ff3d6b2b8a3#64,
   0x748f82ee5defb2fc#64, 0x78a5636f43172f60#64, 0x84c87814a1f0ab72#64, 0x8cc702081a6439ec#64,
   0x90befffa23631e28#64, 0xa4506cebde82bde9#64, 0xbef9a3f7b2c67915#64, 0xc67178f2e372532b#64,
   0xca273eceea26619c#64, 0xd186b8c721c0c207#64, 0xeada7dd6cde0eb1e#64, 0xf57d4f7fee6ed178#64,
   0x06f067aa72176fba#64, 0x0a637dc5a2c898a6#64, 0x113f9804bef90dae#64, 0x1b710b35131c471b#64,
   0x28db77f523047d84#64, 0x32caab7b40c72493#64, 0x3c9ebe0a15c9bebc#64, 0x431d67c49c100d4c#64,
   0x4cc5d4becb3e42b6#64, 0x597f299cfc657e2a#64, 0x5fcb6fab3ad6faec#64, 0x6c44198c4a475817#64
  ]

/-- The functions of R155 with the constants of R156. -/
def sha512Fns : Sha2Fns 64 :=
  { bsig0 := fun x => x.rotateRight 28 ^^^ x.rotateRight 34 ^^^ x.rotateRight 39
    bsig1 := fun x => x.rotateRight 14 ^^^ x.rotateRight 18 ^^^ x.rotateRight 41
    ssig0 := fun x => x.rotateRight 1 ^^^ x.rotateRight 8 ^^^ (x >>> 7)
    ssig1 := fun x => x.rotateRight 19 ^^^ x.rotateRight 61 ^^^ (x >>> 6)
    k := sha512KLo ++ sha512KHi }

/-- The initial hash value of SHA-512 (R157). -/
def sha512Init : Sha2Vars 64 :=
  ⟨0x6a09e667f3bcc908#64, 0xbb67ae8584caa73b#64, 0x3c6ef372fe94f82b#64, 0xa54ff53a5f1d36f1#64,
   0x510e527fade682d1#64, 0x9b05688c2b3e6c1f#64, 0x1f83d9abfb41bd6b#64, 0x5be0cd19137e2179#64⟩

/-- `SHA512(M)` (R160). -/
def sha512 (msg : Bytes) : Bytes :=
  sha2Digest ((allBlocks 128 (padMsg msg 128)).foldl (sha2Compress sha512Fns) sha512Init)

end Sys2Proof.Machine
end

