-- ==== Sys2Proof/Machine/Hmac.lean ====
section
/-!
DEFINITION. The counter-to-code pipeline: hash dispatch (R161), HMAC (R170), the counter message (R172), dynamic
truncation (R174, R175), reduction and rendering (R177, R178), and the whole pipeline `CodeStr` (R179).
-/

namespace Sys2Proof.Machine

/-- `BlockSize(alg)` (R141). -/
def blockSize : Alg → Nat
  | .sha1 => 64
  | .sha256 => 64
  | .sha512 => 128

/-- `DigestSize(alg)` (R141). -/
def digestSize : Alg → Nat
  | .sha1 => 20
  | .sha256 => 32
  | .sha512 => 64

/-- `Hash(alg, M)` (R161). -/
def hash (alg : Alg) (msg : Bytes) : Bytes :=
  match alg with
  | .sha1 => sha1 msg
  | .sha256 => sha256 msg
  | .sha512 => sha512 msg

/-- `K0` of R170: the key, hashed first when longer than a block, extended with zero bytes to a block. -/
def hmacKey (alg : Alg) (key : Bytes) : Bytes :=
  let k := if key.length ≤ blockSize alg then key else hash alg key
  k ++ List.replicate (blockSize alg - k.length) 0#8

/-- `HMAC(alg, key, msg)` (R170). -/
def hmac (alg : Alg) (key msg : Bytes) : Bytes :=
  let k0 := hmacKey alg key
  hash alg (k0.map (· ^^^ 0x5C#8) ++ hash alg (k0.map (· ^^^ 0x36#8) ++ msg))

/-- `Msg(ctr)` (R172). -/
def counterMsg (ctr : DWord) : Bytes := beBytes ctr.toNat 8

/-- The truncation offset: the low 4 bits of the digest's last byte (R174). -/
def truncOffset (dg : Bytes) : Nat := (dg.getD (dg.length - 1) 0#8 &&& 0x0F#8).toNat

/-- `DT(Dg)` (R175). -/
def dynTrunc (dg : Bytes) : Nat :=
  let o := truncOffset dg
  (dg.getD o 0#8 &&& 0x7F#8).toNat * 2 ^ 24 + (dg.getD (o + 1) 0#8).toNat * 2 ^ 16
    + (dg.getD (o + 2) 0#8).toNat * 2 ^ 8 + (dg.getD (o + 3) 0#8).toNat

/-- `CodeValue(P, d)` (R177). -/
def codeValue (p d : Nat) : Nat := p % 10 ^ d

/-- `Digits(v, d)` (R178): `d` ASCII digits, most significant first, zero-padded on the left. -/
def renderDigits (v d : Nat) : Bytes := (List.range d).map fun j => BitVec.ofNat 8 (0x30 + v / 10 ^ (d - 1 - j) % 10)

/-- `CodeStr(secret, alg, d, ctr)` (R179). -/
def codeStr (secret : Bytes) (alg : Alg) (d : Nat) (ctr : DWord) : Bytes :=
  renderDigits (codeValue (dynTrunc (hmac alg secret (counterMsg ctr))) d) d

end Sys2Proof.Machine
end

