-- ==== Sys2Proof/Machine/Operands.lean ====
section
/-!
DEFINITION. The implicit operands of the commands (R93): the secret, the text and the candidate as byte strings, the raw
and the effective counter (R195, R196, R232, R233), the verification window (R206 to R208), the candidate comparison
(R210), and the permission table (R190).
-/

namespace Sys2Proof.Machine

/-- The secret: the first `SLEN` bytes of `SECRET` (R39). -/
def State.secretBytes (s : State) : Bytes := s.bufBytes .secret s.slen.toNat

/-- The text: the first `TLEN` bytes of `TEXT` (R40). -/
def State.textInput (s : State) : Bytes := s.bufBytes .text s.tlen.toNat

/-- The code of an effective counter under the current configuration (R173, R179). -/
def State.codeAt (s : State) (ctr : DWord) : Bytes := codeStr s.secretBytes s.alg s.digits.toNat ctr

/-! ### Counters -/

/-- `DefaultRaw()`: `SEQ` in type hotp (R195), the sampled time in type totp (R232). -/
def State.defaultRaw (s : State) : DWord :=
  match s.typ with
  | .hotp => s.seq
  | .totp => s.tsamp

/-- The raw counter of a command with the flag `DEF` (R195, R232). -/
def State.rawCounter (s : State) (useDefault : Bool) : DWord := if useDefault then s.defaultRaw else s.opa

/-- `SEQ` after a command with the flag `DEF`: advanced only by the default counter of type hotp (R195). -/
def State.nextSeq (s : State) (useDefault : Bool) : DWord :=
  match useDefault, s.typ with
  | true, .hotp => s.seq + 1
  | true, .totp => s.seq
  | false, _ => s.seq

/-- `Transform(raw)`: the identity in type hotp, floor division by `STEP` in type totp (R233). -/
def State.transform (s : State) (raw : DWord) : DWord :=
  match s.typ with
  | .hotp => raw
  | .totp => raw / s.timeStep

/-- The effective counter of a command (R196). -/
def State.effectiveCounter (s : State) (useDefault : Bool) : DWord := s.transform (s.rawCounter useDefault)

/-! ### The verification window -/

/-- `DefaultWindow()` (R206). -/
def State.defaultWindow (s : State) : Int :=
  match s.typ with
  | .hotp => 1
  | .totp => 2

/-- The requested window of `VERIFY` with the flag `WDEF`: the default, or `s32(WINDOW)` (R205). -/
def State.requestedWindow (s : State) (windowDefault : Bool) : Int :=
  if windowDefault then s.defaultWindow else s.window.toInt

/-- `ClampWindow(win)` for a maximum window (R207). -/
def clampWindow (win : Int) (maxwin : Nat) : Nat := (min (max win 1) (maxwin : Int)).toNat

/-- `ScanStart(ctr, w)`, modulo `2^64` (R208). -/
def scanStart (ctr : DWord) (w : Nat) : DWord := ctr + 1 - BitVec.ofNat 64 ((w + 1) / 2)

/-- The counters that a scan of `w` counters around `ctr` tests, in scan order (R208, R209). -/
def scanCounters (ctr : DWord) (w : Nat) : List DWord := (List.range w).map fun i => scanStart ctr w + BitVec.ofNat 64 i

/-- `CandMatches(s)` for a code of `CFG.DIGITS` bytes (R210). -/
def State.candMatches (s : State) (code : Bytes) : Bool :=
  decide (s.clen.toNat = s.digits.toNat) && decide (s.bufBytes .cand s.digits.toNat = code)

/-- The result of the scan of `VERIFY`: some counter of the window has a code equal to the candidate (R205, R209). -/
def State.verifyScan (s : State) (useDefault windowDefault : Bool) : Bool :=
  let w := clampWindow (s.requestedWindow windowDefault) s.maxwin.toNat
  (scanCounters (s.effectiveCounter useDefault) w).any fun c => s.candMatches (s.codeAt c)

/-! ### Permissions -/

/-- Which command is permitted in which phase and type (R190). -/
def permitted (i : Instr) (ready : Bool) (typ : EngineType) : Bool :=
  match i with
  | .init _ _ => !ready
  | .clear => true
  | .setalg _ => ready
  | .setstep => ready && decide (typ = .totp)
  | .setmaxw _ => ready
  | .gen _ => ready
  | .verify _ _ => ready
  | .b32enc _ _ => true
  | .b32dec => !ready

/-- The first two tests of every command, in their order: encoding, then permission (R190). The state changes of the command
are made by `k` when both pass. -/
def guarded (i : Instr) (s : State) (k : State → StepResult) : StepResult :=
  if i.wf = false then raiseError .illegalCommand s
  else if permitted i s.ready s.typ = false then raiseError .notPermitted s
  else k s

end Sys2Proof.Machine
end

