-- ==== Sys2Proof/Machine/Codec.lean ====
section
/-!
DEFINITION. The two codec commands: `B32ENC` (R123) and `B32DEC` (R124).
-/

namespace Sys2Proof.Machine

/-- The writes of a successful `B32ENC` with the text `t` (R123). -/
def State.putText (s : State) (t : Bytes) : State := { s with mem := (s.fillBuf .text t).mem, tlen := BitVec.ofNat 16 t.length }

/-- The writes of a successful `B32DEC` with the decoded bytes `r` (R124). -/
def State.putSecret (s : State) (r : Bytes) : State := { s with mem := (s.fillBuf .secret r).mem, slen := BitVec.ofNat 16 r.length }

/-- `B32ENC`, with the flags `PAD` and `GRP` (R123). -/
def execB32enc (pad grp : Bool) (s : State) : StepResult :=
  guarded (.b32enc pad grp) s fun s =>
    if s.par.secretMax < s.slen.toNat then raiseError .lengthError s
    else match textForm pad grp with
      | some form => succeed (s.putText (b32Encode form s.secretBytes))
      | none => raiseError .illegalCommand s

/-- `B32DEC` (R124), its errors in the order of R258. -/
def execB32dec (s : State) : StepResult :=
  guarded .b32dec s fun s =>
    if s.par.textMax < s.tlen.toNat then raiseError .lengthError s
    else match b32Decode s.textInput with
      | none => raiseError .invalidBase32Secret s
      | some r => if s.par.secretMax < r.length then raiseError .lengthError s else succeed (s.putSecret r)

end Sys2Proof.Machine
end

