-- ==== Sys2Proof/Machine/Lifecycle.lean ====
section
/-!
DEFINITION. Construction and destruction of an engine instance: `INIT` (R191) and `CLEAR` (R192).
-/

namespace Sys2Proof.Machine

/-- `CFG.MAXWIN` after `INIT`: 1 for hotp, 3 for totp (R191). -/
def initialMaxwin : EngineType → BitVec 8
  | .hotp => 1
  | .totp => 3

/-- The writes of a successful `INIT` (R191). -/
def State.construct (s : State) (t : EngineType) (d : BitVec 4) : State :=
  { s with
    mem := (s.fillBuf .code []).mem
    typ := t
    digits := d
    alg := .sha1
    maxwin := initialMaxwin t
    timeStep := 30
    seq := 0
    matched := false
    codelen := 0
    ready := true }

/-- `INIT <type>, <digits>` (R191). -/
def execInit (t : EngineType) (d : BitVec 4) (s : State) : StepResult :=
  guarded (.init t d) s fun s =>
    if s.par.secretMax < s.slen.toNat then raiseError .lengthError s else succeed (s.construct t d)

/-- `CLEAR` (R192). -/
def execClear (s : State) : StepResult := guarded .clear s fun s => succeed s.zeroize

end Sys2Proof.Machine
end

