-- ==== Sys2Proof/Machine/Otp.lean ====
section
/-!
DEFINITION. Generation and verification of codes: `GEN` (R197, R237) and `VERIFY` (R205, R238).
-/

namespace Sys2Proof.Machine

/-- `GEN`, and `GEN.D` with the flag `DEF` (R197). -/
def execGen (useDefault : Bool) (s : State) : StepResult :=
  guarded (.gen useDefault) s fun s =>
    succeed
      { s with
        mem := (s.fillBuf .code (s.codeAt (s.effectiveCounter useDefault))).mem
        codelen := s.digits.setWidth 5
        seq := s.nextSeq useDefault }

/-- `VERIFY`, with the flags `DEF` and `WDEF` (R205). -/
def execVerify (useDefault windowDefault : Bool) (s : State) : StepResult :=
  guarded (.verify useDefault windowDefault) s fun s =>
    succeed { s with matched := s.verifyScan useDefault windowDefault, seq := s.nextSeq useDefault }

end Sys2Proof.Machine
end

