-- ==== Sys2Proof/Machine/Reconfigure.lean ====
section
/-!
DEFINITION. Reconfiguration of a constructed engine: `SETALG` (R193), `SETMAXW` (R194) and `SETSTEP` (R234).
-/

namespace Sys2Proof.Machine

/-- `SETALG <alg>` (R193). -/
def execSetalg (a : Alg) (s : State) : StepResult := guarded (.setalg a) s fun s => succeed { s with alg := a }

/-- `SETMAXW <n>` (R194). -/
def execSetmaxw (n : BitVec 8) (s : State) : StepResult := guarded (.setmaxw n) s fun s => succeed { s with maxwin := n }

/-- `SETSTEP`: `OPA`, read as a signed integer, becomes the time step unless it is `<= 0` (R234). -/
def execSetstep (s : State) : StepResult :=
  guarded .setstep s fun s =>
    if s.opa.toInt ≤ 0 then raiseError .invalidTimeStep s else succeed { s with timeStep := s.opa }

end Sys2Proof.Machine
end

