-- ==== Sys2Proof/Machine/Dispatch.lean ====
section
/-!
DEFINITION. Dispatch of a command to its meaning, one arm per constructor of `Instr` (`Exec(w)` of R262).
-/

namespace Sys2Proof.Machine

def exec (i : Instr) (s : State) : Host.Outcome State Fault Refusal :=
  match i with
  | .init t d => Sys2Proof.Machine.execInit t d s
  | .clear => Sys2Proof.Machine.execClear s
  | .setalg a => Sys2Proof.Machine.execSetalg a s
  | .setstep => Sys2Proof.Machine.execSetstep s
  | .setmaxw n => Sys2Proof.Machine.execSetmaxw n s
  | .gen d => Sys2Proof.Machine.execGen d s
  | .verify d w => Sys2Proof.Machine.execVerify d w s
  | .b32enc p g => Sys2Proof.Machine.execB32enc p g s
  | .b32dec => Sys2Proof.Machine.execB32dec s

end Sys2Proof.Machine
end

