-- ==== Sys2Proof/Machine/Step.lean ====
section
/-!
DEFINITION. One step of the machine: one turn of one agent (R8, R73). The engine's turn is `Complete` (R262), enabled
exactly when `BUSY = 1`; a host turn is one bus access (R61); the reset input may change at any turn (R280).
-/

namespace Sys2Proof.Machine

/-- `Complete` for the command word `w`: a legal word is executed, any other ends with `IllegalCommand` (R96, R262). -/
def complete (w : Word) (s : State) : StepResult :=
  match decode w with
  | .ok i => exec i s
  | .error _ => completeIllegal s

/-- The engine's turn: `Complete` when `BUSY = 1`, else nothing is enabled and the engine stays as it is (R101, R262). -/
def engineTurn (s : State) : StepResult :=
  if s.busy then
    match s.commandWord with
    | some w => complete w s
    | none => .fault .noPendingWord
  else .next s

/-- One turn of one agent (R8). -/
def takeTurn (t : Turn) (s : State) : StepResult :=
  match t with
  | .engine => engineTurn s
  | .read a n => .next (hostRead s a n)
  | .write a n v time => .next (hostWrite s a n v time)
  | .rst level => .next (s.driveReset level)

/-- One step: the first turn of the agenda, or the engine's turn when no turn is scheduled. -/
def step (s : State) : StepResult :=
  match s.agenda with
  | [] => engineTurn s
  | t :: rest => takeTurn t { s with agenda := rest }

/-- The state `s` with the word of `nbits` bits numbered `w` latched as the command in flight and the engine to move next, so
that the next step completes exactly that command (R71, R262). -/
def State.withFetchWord (s : State) (nbits w : Nat) : State :=
  { s with
    pending := some (tableWord nbits w)
    busy := true
    agenda := match s.agenda with
      | [] => []
      | t :: rest => .engine :: t :: rest }

end Sys2Proof.Machine
end

