-- ==== Sys2Proof/Safety.lean ====
section
/-!
DEFINITION. The terms in which claims about runs are stated: the state invariant (R48, R251, and the canonical form of the
memory), quiescence (R101), and the two shapes of a completed command written out from R262. The hardware has no stop of its own
(R101, R265), so a safe run is one whose states keep the invariant.
-/

namespace Sys2Proof.Machine

/-- The values that `STATUS.ERR` can hold: the seven of R251 but for the reserved `0x02`, which no command raises (R253). -/
def errCodes : List Byte := [0x00, 0x01, 0x03, 0x10, 0x11, 0x12]

/-- The invariant of every reachable state. `par_legal` to `empty_config` are R6 and R48, `err_code` is R251 with R253, the last
three are the model's own form of R46, R60 and R280. -/
structure State.Inv (s : State) : Prop where
  par_legal : s.par.Legal
  digits_range : 1 ≤ s.digits.toNat ∧ s.digits.toNat ≤ 10
  maxwin_range : 1 ≤ s.maxwin.toNat
  step_range : 1 ≤ s.timeStep.toNat ∧ s.timeStep.toNat < 2 ^ 63
  codelen_cases : s.codelen.toNat = 0 ∨ s.codelen.toNat = s.digits.toNat
  busy_pending : s.busy = s.pending.isSome
  ready_slen : s.ready = true → s.slen.toNat ≤ s.par.secretMax
  empty_config : s.ready = false → s.alg = .sha1 ∧ s.typ = .hotp ∧ s.digits = 6 ∧ s.maxwin = 1 ∧ s.timeStep = 30
    ∧ s.codelen = 0 ∧ s.matched = false
  err_code : s.err ∈ errCodes
  mem_wf : Memory.wf s.mem
  mem_mapped : ∀ c ∈ s.mem, bufAt s.par c.1 ≠ none
  rst_state : s.rst = true → s = { State.resetWith s.par with rst := true, agenda := s.agenda, reply := s.reply }

/-- No command is in flight (R101). -/
def State.Quiescent (s : State) : Prop := s.busy = false ∧ s.pending = none

/-- The state after a command that ended with the error `code` (R262, R263): only the completion's own writes. -/
def State.afterError (s : State) (code : Byte) : State :=
  { s with err := code, busy := false, pending := none, intstat := s.intstat ||| 0b11 }

/-- The completion's own writes of a command that succeeded (R262), over a state with the command's writes. -/
def State.afterSuccess (s : State) : State :=
  { s with err := 0, busy := false, pending := none, intstat := s.intstat ||| 0b01 }

/-! ### The address map as ranges of offsets (R60) -/

/-- The mapped offsets of R60. -/
def MappedAt (p : Params) (a : Nat) : Prop :=
  a < 0x01C ∨ (0x020 ≤ a ∧ a < 0x02C) ∨ (0x030 ≤ a ∧ a < 0x050) ∨ (0x060 ≤ a ∧ a < 0x080)
    ∨ (0x1000 ≤ a ∧ a < 0x1000 + p.secretMax) ∨ (0x2000 ≤ a ∧ a < 0x2000 + p.textMax)

/-- The offsets of R68 item 4: `ID`, `CAP`, `STATUS`, `CFG`, `STEP_LO`, `STEP_HI`, `CODELEN` and `CODE`. -/
def ReadOnlyAt (a : Nat) : Prop :=
  a < 0x008 ∨ (0x00C ≤ a ∧ a < 0x010) ∨ (0x018 ≤ a ∧ a < 0x01C) ∨ (0x030 ≤ a ∧ a < 0x038)
    ∨ (0x04C ≤ a ∧ a < 0x050) ∨ (0x070 ≤ a ∧ a < 0x080)

/-- The offsets of R68 item 5: `SLEN` and `SECRET`. -/
def LockedAt (p : Params) (a : Nat) : Prop := (0x040 ≤ a ∧ a < 0x044) ∨ (0x1000 ≤ a ∧ a < 0x1000 + p.secretMax)

/-- The offsets that a read may touch while `BUSY`: `ID`, `CAP`, `STATUS`, `INTSTAT`, `INTEN` (R69). -/
def BusyReadableAt (a : Nat) : Prop := a < 0x008 ∨ (0x00C ≤ a ∧ a < 0x018)

/-- The offsets that a write may touch while `BUSY`: `INTSTAT`, `INTEN` (R69). -/
def BusyWritableAt (a : Nat) : Prop := 0x010 ≤ a ∧ a < 0x018

/-! ### Operands of `GEN` and `VERIFY` as numbers (R195, R206 to R208, R232, R233) -/

/-- Byte `i` of a buffer that begins at offset `base`. -/
def State.byteAt (s : State) (base i : Nat) : Byte := s.mem.read (base + i)

/-- The secret as a byte string: `SECRET[0 .. SLEN-1]` (R39). -/
def State.secretOf (s : State) : Bytes := (List.range s.slen.toNat).map fun i => s.byteAt 0x1000 i

/-- The text as a byte string: `TEXT[0 .. TLEN-1]` (R40). -/
def State.textOf (s : State) : Bytes := (List.range s.tlen.toNat).map fun i => s.byteAt 0x2000 i

/-- The raw counter as a natural (R195, R232). -/
def State.rawNat (s : State) (useDefault : Bool) : Nat :=
  if useDefault = true then (if s.typ = .hotp then s.seq.toNat else s.tsamp.toNat) else s.opa.toNat

/-- The effective counter as a natural (R196, R233). -/
def State.counterNat (s : State) (useDefault : Bool) : Nat :=
  if s.typ = .hotp then s.rawNat useDefault else s.rawNat useDefault / s.timeStep.toNat

/-- The code of the effective counter `c` (R179). -/
def State.codeOf (s : State) (c : Nat) : Bytes := codeStr s.secretOf s.alg s.digits.toNat (BitVec.ofNat 64 c)

/-- The clamped window `w` of R207, of the requested window of R205 and R206. -/
def State.windowInt (s : State) (windowDefault : Bool) : Int :=
  let win : Int := if windowDefault = true then (if s.typ = .hotp then 1 else 2) else s.window.toInt
  min (max win 1) s.maxwin.toNat

/-- The counter at place `i` of a scan of `w` counters around `ctr`: `u64(ctr + 1 - ceil(w/2) + i)` (R208). -/
def scanCounterNat (ctr : Nat) (w : Int) (i : Nat) : Nat := (((ctr : Int) + 1 - (w + 1) / 2 + i) % 2 ^ 64).toNat

/-- The candidate equals a code of `CFG.DIGITS` bytes: equal length and equal bytes (R210). -/
def State.CandidateIs (s : State) (code : Bytes) : Prop :=
  s.clen.toNat = s.digits.toNat ∧ ∀ j < s.digits.toNat, s.byteAt 0x060 j = code.getD j 0#8

end Sys2Proof.Machine
end

