-- ==== Sys2Proof/Certificates/Slice0/Obligations.lean ====
section
/-!
DEFINITION. The statements for the provers. Each docstring names the rules of the spec that the statement formalises; a clause
that rests on the model's own choice says so and names the log entry.
-/

open Sys2Proof Sys2Proof.Machine

/-! ### Encoding (30_encoding.md) -/

/-- R90, R92, R95: the word of every well-formed command decodes to that command, with every operand at every value that its
encoding admits. -/
def Obligations.DecodeOfEncode : Prop := ∀ i : Instr, i.wf = true → decode (encode i) = .ok i

/-- R95, R96: a word that decodes is the one word of the command it decodes to, and that command is well formed. -/
def Obligations.EncodeOfDecode : Prop := ∀ (w : Word) (i : Instr), decode w = .ok i → i.wf = true ∧ encode i = w

/-- R95: a word that satisfies `(w AND mask) = match` and the extra condition of a row decodes to a command of that row's
mnemonic, and no other word decodes. -/
def Obligations.DecodeFollowsOpcodeTable : Prop := ∀ w : Word,
  (∀ r ∈ opcodeTable, r.accepts w = true → ∃ i, decode w = .ok i ∧ i.mnemonic = r.mnemonic)
  ∧ ((∃ i, decode w = .ok i) → ∃ r ∈ opcodeTable, r.accepts w = true)

/-- R98: words that the spec writes out decode to the commands they stand for, and the two words that R96 names are illegal. -/
def Obligations.SpecWordsDecode : Prop :=
  decode 0x00060001 = .ok (.init .hotp 6) ∧ decode 0x00080101 = .ok (.init .totp 8)
  ∧ decode 0x00020003 = .ok (.setalg .sha512) ∧ decode 0x00030005 = .ok (.setmaxw 3)
  ∧ decode 0x00000110 = .ok (.gen true) ∧ decode 0x00000311 = .ok (.verify true true)
  ∧ decode 0x00000220 = .ok (.b32enc false true) ∧ decode 0x00000021 = .ok .b32dec
  ∧ decode 0x00000002 = .ok .clear ∧ decode 0x00000004 = .ok .setstep
  ∧ (∃ e, decode 0x00000000 = .error e) ∧ ∃ e, decode 0xFFFFFFFF = .error e

/-! ### The engine's step (60_exceptions.md) -/

/-- R262: when a legal word is in flight and the engine moves next, the step is the execution of the decoded command. An empty
agenda gives the engine the turn (log entry 1); a scheduled turn is taken off the agenda first. -/
def Obligations.StepRunsPendingCommand : Prop := ∀ (s : State) (w : Word) (i : Instr),
  s.busy = true → s.pending = some w → decode w = .ok i →
  (s.agenda = [] → step s = exec i s)
  ∧ ∀ rest, s.agenda = .engine :: rest → step s = exec i { s with agenda := rest }

/-- The fetch interface: a word stored for the next fetch is run by the next step, from any state (log entry 1). -/
def Obligations.FetchedWordRuns : Prop := ∀ (s : State) (w : Nat) (i : Instr),
  decodeTableWord 32 w = some i →
  step (s.withFetchWord 32 w) = exec i { s with pending := some (BitVec.ofNat 32 w), busy := true }

/-- R255: a pending word that satisfies no row of R95 completes with `IllegalCommand` and nothing else changes, in every phase. That
an empty agenda gives the engine the turn is the model's choice (log entry 1). -/
def Obligations.IllegalWordCompletes : Prop := ∀ (s : State) (w : Word) (rest : List Turn),
  s.busy = true → s.pending = some w → (∀ r ∈ opcodeTable, r.accepts w = false) →
  (s.agenda = [] → step s = .next (s.afterError 0x10))
  ∧ (s.agenda = .engine :: rest → step s = .next ({ s with agenda := rest }.afterError 0x10))

/-- R262: the engine's turn is enabled exactly when `BUSY = 1`; in an idle state it changes nothing (log entry 1). -/
def Obligations.IdleEngineChangesNothing : Prop := ∀ s : State, s.busy = false →
  (s.agenda = [] → step s = .next s) ∧ ∀ rest, s.agenda = .engine :: rest → step s = .next { s with agenda := rest }

/-- R262, R265: the completion of a command cannot fail: it ends idle, sets `INTSTAT.DONE`, sets `INTSTAT.ERR` exactly when the
code it records is not 0 and otherwise keeps it, and leaves `INTEN` and `TSAMP` alone. -/
def Obligations.EveryCommandCompletes : Prop := ∀ (i : Instr) (s : State), ∃ t, exec i s = .next t
  ∧ t.busy = false ∧ t.pending = none ∧ t.intstat.getLsbD 0 = true
  ∧ t.intstat.getLsbD 1 = (s.intstat.getLsbD 1 || decide (t.err ≠ 0))
  ∧ t.inten = s.inten ∧ t.tsamp = s.tsamp ∧ t.par = s.par

/-- R263: a failed command has no architectural effect at all apart from the completion's own writes. -/
def Obligations.FailedCommandLeavesNoTrace : Prop := ∀ s t : State,
  s.busy = true → engineTurn s = .next t → t.err ≠ 0 →
  t = { s with err := t.err, busy := false, pending := none, intstat := s.intstat ||| 0b11 }

/-- R101: the engine never halts: in every state that satisfies the invariant a step gives a next state. -/
def Obligations.StepNeverStops : Prop := ∀ s : State, s.Inv → ∃ t, step s = .next t

/-- R261 with R262: `irq` is the level of the enabled pending events; it is up after any completion when `INTEN.DONE` is 1, and
down while `INTEN = 0`. -/
def Obligations.InterruptOutput : Prop :=
  (∀ s : State, irq s = ((s.intstat.getLsbD 0 && s.inten.getLsbD 0) || (s.intstat.getLsbD 1 && s.inten.getLsbD 1)))
  ∧ (∀ s t : State, s.busy = true → s.inten.getLsbD 0 = true → engineTurn s = .next t → irq t = true)
  ∧ ∀ s : State, s.inten = 0 → irq s = false

/-! ### Reset (10_state.md, 70_reset_and_hazards.md) -/

/-- R46: the value of every piece of state after reset, for every legal parameter, and the words of `STATUS`, `CFG`, `ID`, `CAP`. -/
def Obligations.ResetValues : Prop := ∀ p : Params, p.Legal → ∀ s : State, s = State.resetWith p →
  s.busy = false ∧ s.ready = false ∧ s.matched = false ∧ s.err = 0 ∧ memRead s 0x00C 4 = some 0
  ∧ s.intstat = 0 ∧ s.inten = 0 ∧ memRead s 0x018 4 = some 0x00010600
  ∧ s.alg = .sha1 ∧ s.typ = .hotp ∧ s.digits = 6 ∧ s.maxwin = 1
  ∧ s.timeStep = 30 ∧ s.seq = 0 ∧ s.opa = 0 ∧ s.window = 1
  ∧ s.slen = 0 ∧ s.tlen = 0 ∧ s.clen = 0 ∧ s.codelen = 0
  ∧ (∀ b i, s.bufByte b i = 0) ∧ s.pending = none ∧ s.tsamp = 0
  ∧ memRead s 0x000 4 = some 0x4F545045
  ∧ memRead s 0x004 4 = some (BitVec.ofNat 32 (p.textMax * 2 ^ 16 + p.secretMax))

/-- R46 with R48: the state after reset satisfies the invariant, for every legal parameter. -/
def Obligations.ResetSatisfiesInvariant : Prop := ∀ p : Params, p.Legal → (State.resetWith p).Inv

/-- R48, R251, R253: every step of every agent keeps the invariant, from every state that satisfies it. Its clauses on the memory's
canonical form and on the level of the reset input are the model's own (log entries 1 and 2). -/
def Obligations.StepKeepsInvariant : Prop := ∀ s t : State, s.Inv → step s = .next t → t.Inv

/-- R280, R282: an asserted reset discards the command in flight and gives every piece of state its reset value, so does its release,
an input that stays low changes nothing, and every host access is refused while the input is asserted. The level, the agenda and
the reply are the model's own fields (log entries 1 and 2). -/
def Obligations.ResetDiscardsCommand : Prop :=
  (∀ (s : State) (rest : List Turn), s.agenda = .rst true :: rest →
    step s = .next { State.resetWith s.par with rst := true, agenda := rest })
  ∧ (∀ (s : State) (rest : List Turn), s.agenda = .rst false :: rest → s.rst = true →
    step s = .next { State.resetWith s.par with rst := false, agenda := rest })
  ∧ (∀ (s : State) (rest : List Turn), s.agenda = .rst false :: rest → s.rst = false → step s = .next { s with agenda := rest })
  ∧ ∀ (s : State) (a : Offset) (n : Nat) (v : Word) (t : DWord), s.rst = true →
    memRead s a n = none ∧ memWrite s a n v t = none

/-! ### The host bus (20_memory.md) -/

/-- R68: an access is refused if and only if one of the six conditions holds, with the map of R60 as ranges of offsets. -/
def Obligations.AccessRefusedExactlyWhen : Prop :=
  ∀ (s : State) (a : Offset) (n : Nat) (v : Word) (t : DWord), s.par.Legal → s.rst = false →
  (memRead s a n = none ↔
    ¬ (n = 1 ∨ n = 2 ∨ n = 4) ∨ a.toNat % n ≠ 0 ∨ ¬ MappedAt s.par a.toNat ∨ (a.toNat < 0x060 ∧ n ≠ 4)
    ∨ (s.busy = true ∧ ¬ BusyReadableAt a.toNat))
  ∧ (memWrite s a n v t = none ↔
    ¬ (n = 1 ∨ n = 2 ∨ n = 4) ∨ a.toNat % n ≠ 0 ∨ ¬ MappedAt s.par a.toNat ∨ (a.toNat < 0x060 ∧ n ≠ 4)
    ∨ ReadOnlyAt a.toNat ∨ (s.ready = true ∧ LockedAt s.par a.toNat)
    ∨ (s.busy = true ∧ ¬ BusyWritableAt a.toNat))

/-- R69: while `BUSY`, the only accesses that are served are the reads of `ID`, `CAP`, `STATUS`, `INTSTAT`, `INTEN` and the writes of
`INTSTAT` and `INTEN`. -/
def Obligations.BusyServesOnlyStatusGroup : Prop :=
  ∀ (s : State) (a : Offset) (n : Nat) (v : Word) (t : DWord), s.busy = true → s.rst = false →
  ((memRead s a n).isSome = true ↔ n = 4 ∧ (a = 0x000 ∨ a = 0x004 ∨ a = 0x00C ∨ a = 0x010 ∨ a = 0x014))
  ∧ ((memWrite s a n v t).isSome = true ↔ n = 4 ∧ (a = 0x010 ∨ a = 0x014))

/-- R259, R61, R62, R63: a host read changes no state; a refused access has outcome `ERR` and changes nothing; an accepted write has
exactly the effect of `MemWrite`, so the statements about `memWrite` speak of steps. The agenda and the reply are the model's own
fields (log entries 1 and 2). -/
def Obligations.ReadsAndRefusalsChangeNothing : Prop :=
  ∀ (s : State) (a : Offset) (n : Nat) (rest : List Turn),
  (∀ v, s.agenda = .read a n :: rest → memRead s a n = some v → step s = .next { s with agenda := rest, reply := .data v })
  ∧ (s.agenda = .read a n :: rest → memRead s a n = none → step s = .next { s with agenda := rest, reply := .err })
  ∧ (∀ v t, s.agenda = .write a n v t :: rest → memWrite s a n v t = none →
    step s = .next { s with agenda := rest, reply := .err })
  ∧ ∀ v t s', s.agenda = .write a n v t :: rest → memWrite s a n v t = some s' →
    step s = .next { s' with agenda := rest, reply := .written }

/-- R62, R31, R32, R33: the value that a read of each of the 18 registers gives. The first five are the registers of the status group,
read with any value of `BUSY` (R69); the others need `BUSY = 0`. -/
def Obligations.RegisterReadValues : Prop := ∀ s : State, s.rst = false →
  memRead s 0x000 4 = some 0x4F545045
  ∧ (s.par.Legal → memRead s 0x004 4 = some (BitVec.ofNat 32 (s.par.textMax * 2 ^ 16 + s.par.secretMax)))
  ∧ memRead s 0x00C 4 = some (BitVec.ofNat 32
    (s.err.toNat * 2 ^ 8 + s.matched.toNat * 2 ^ 2 + s.ready.toNat * 2 + s.busy.toNat))
  ∧ memRead s 0x010 4 = some (BitVec.ofNat 32 s.intstat.toNat) ∧ memRead s 0x014 4 = some (BitVec.ofNat 32 s.inten.toNat)
  ∧ (s.busy = false →
    memRead s 0x008 4 = some 0
    ∧ memRead s 0x018 4 = some (BitVec.ofNat 32 (s.maxwin.toNat * 2 ^ 16 + s.digits.toNat * 2 ^ 8
      + (if s.typ = EngineType.totp then 2 ^ 4 else 0) + s.alg.code.toNat))
    ∧ memRead s 0x020 4 = some (BitVec.ofNat 32 s.opa.toNat) ∧ memRead s 0x024 4 = some (BitVec.ofNat 32 (s.opa.toNat / 2 ^ 32))
    ∧ memRead s 0x028 4 = some s.window
    ∧ memRead s 0x030 4 = some (BitVec.ofNat 32 s.timeStep.toNat)
    ∧ memRead s 0x034 4 = some (BitVec.ofNat 32 (s.timeStep.toNat / 2 ^ 32))
    ∧ memRead s 0x038 4 = some (BitVec.ofNat 32 s.seq.toNat) ∧ memRead s 0x03C 4 = some (BitVec.ofNat 32 (s.seq.toNat / 2 ^ 32))
    ∧ memRead s 0x040 4 = some (BitVec.ofNat 32 s.slen.toNat) ∧ memRead s 0x044 4 = some (BitVec.ofNat 32 s.tlen.toNat)
    ∧ memRead s 0x048 4 = some (BitVec.ofNat 32 s.clen.toNat) ∧ memRead s 0x04C 4 = some (BitVec.ofNat 32 s.codelen.toNat))

/-- R27, R30, R47: the places of the bits of `STATUS` and `CFG`, and their reserved bits reading 0. -/
def Obligations.StatusAndCfgLayout : Prop := ∀ (s : State) (v : Word),
  (memRead s 0x00C 4 = some v → v.getLsbD 0 = s.busy ∧ v.getLsbD 1 = s.ready ∧ v.getLsbD 2 = s.matched
    ∧ v.extractLsb' 8 8 = s.err ∧ v &&& 0xFFFF00F8 = 0)
  ∧ (memRead s 0x018 4 = some v → v.extractLsb' 0 2 = s.alg.code ∧ v.getLsbD 4 = decide (s.typ = .totp)
    ∧ v.extractLsb' 8 4 = s.digits ∧ v.extractLsb' 16 8 = s.maxwin ∧ v &&& 0xFF00F0EC = 0)

/-- R63: the effect of an accepted write of each register that stores what is written, one half of a 64-bit register at a time (R288),
and nothing else. `INTEN` is served with any value of `BUSY` (R69); `SLEN` is locked in phase READY (R70). -/
def Obligations.RegisterWriteEffects : Prop := ∀ (s : State) (v : Word) (t : DWord), s.rst = false →
  memWrite s 0x014 4 v t = some { s with inten := BitVec.ofNat 2 v.toNat }
  ∧ (s.busy = false →
    memWrite s 0x028 4 v t = some { s with window := v }
    ∧ memWrite s 0x020 4 v t = some { s with opa := BitVec.ofNat 64 (s.opa.toNat / 2 ^ 32 * 2 ^ 32 + v.toNat) }
    ∧ memWrite s 0x024 4 v t = some { s with opa := BitVec.ofNat 64 (v.toNat * 2 ^ 32 + s.opa.toNat % 2 ^ 32) }
    ∧ memWrite s 0x038 4 v t = some { s with seq := BitVec.ofNat 64 (s.seq.toNat / 2 ^ 32 * 2 ^ 32 + v.toNat) }
    ∧ memWrite s 0x03C 4 v t = some { s with seq := BitVec.ofNat 64 (v.toNat * 2 ^ 32 + s.seq.toNat % 2 ^ 32) }
    ∧ memWrite s 0x044 4 v t = some { s with tlen := BitVec.ofNat 16 v.toNat }
    ∧ memWrite s 0x048 4 v t = some { s with clen := BitVec.ofNat 8 v.toNat }
    ∧ (s.ready = false → memWrite s 0x040 4 v t = some { s with slen := BitVec.ofNat 16 v.toNat })
    ∧ (s.ready = true → memWrite s 0x040 4 v t = none))

/-- R47: a host write ignores the values written to reserved bits. -/
def Obligations.ReservedBitsIgnored : Prop := ∀ (s : State) (v v' : Word) (t : DWord),
  (v &&& 0x3 = v' &&& 0x3 → memWrite s 0x010 4 v t = memWrite s 0x010 4 v' t ∧ memWrite s 0x014 4 v t = memWrite s 0x014 4 v' t)
  ∧ (v &&& 0xFFFF = v' &&& 0xFFFF →
    memWrite s 0x040 4 v t = memWrite s 0x040 4 v' t ∧ memWrite s 0x044 4 v t = memWrite s 0x044 4 v' t)
  ∧ (v &&& 0xFF = v' &&& 0xFF → memWrite s 0x048 4 v t = memWrite s 0x048 4 v' t)

/-- R22, R24, R288: the two halves of `OPA`, and of `SEQ`, written in either order give the pair the host wrote. -/
def Obligations.HalvesWrittenInEitherOrder : Prop := ∀ (s : State) (lo hi : Word) (t : DWord), s.busy = false → s.rst = false →
  let x := BitVec.ofNat 64 (hi.toNat * 2 ^ 32 + lo.toNat)
  ((memWrite s 0x020 4 lo t).bind fun r => memWrite r 0x024 4 hi t) = some { s with opa := x }
  ∧ ((memWrite s 0x024 4 hi t).bind fun r => memWrite r 0x020 4 lo t) = some { s with opa := x }
  ∧ ((memWrite s 0x038 4 lo t).bind fun r => memWrite r 0x03C 4 hi t) = some { s with seq := x }
  ∧ ((memWrite s 0x03C 4 hi t).bind fun r => memWrite r 0x038 4 lo t) = some { s with seq := x }

/-- R28: a host write of `INTSTAT` clears exactly the bits whose written value is 1 and leaves the others, also while `BUSY`. -/
def Obligations.WriteOneToClear : Prop := ∀ (s : State) (v : Word) (t : DWord), s.rst = false →
  ∃ x : BitVec 2, memWrite s 0x010 4 v t = some { s with intstat := x }
    ∧ ∀ k < 2, x.getLsbD k = (s.intstat.getLsbD k && !v.getLsbD k)

/-- R64, R62, R63: little-endian byte lanes: an accepted write of `n` bytes to a buffer puts lane `i` at offset `a + i` and changes
nothing else; an accepted read of `n` bytes of a buffer gives the sum of the bytes, the one at the lowest offset in bits `[7:0]`. -/
def Obligations.BufferAccessLanes : Prop := ∀ (s : State) (a : Offset) (n : Nat), 0x060 ≤ a.toNat →
  (∀ v t s', memWrite s a n v t = some s' → s' = { s with mem := s'.mem }
    ∧ (∀ x, ¬ (a.toNat ≤ x ∧ x < a.toNat + n) → s'.mem.read x = s.mem.read x)
    ∧ ∀ i < n, s'.mem.read (a.toNat + i) = BitVec.ofNat 8 (v.toNat / 256 ^ i))
  ∧ ∀ v, memRead s a n = some v → v.toNat = ∑ i ∈ Finset.range n, (s.mem.read (a.toNat + i)).toNat * 256 ^ i

/-- R71: an accepted write of `CMD` latches the word and the time, sets `BUSY` and does nothing else, for every word. -/
def Obligations.CommandIssue : Prop := ∀ (s : State) (v : Word) (t : DWord) (rest : List Turn),
  s.agenda = .write 0x008 4 v t :: rest → s.busy = false → s.rst = false →
  step s = .next { s with agenda := rest, reply := .written, pending := some v, tsamp := t, busy := true }

/-- R76 (from R69 and R71): while a command is in flight no host access changes anything but `INTSTAT` and `INTEN`. -/
def Obligations.OperandsFrozenWhileBusy : Prop := ∀ (s t : State), s.busy = true → step s = .next t →
  (∃ a n v time, s.agenda.head? = some (.write a n v time)) ∨ (∃ a n, s.agenda.head? = some (.read a n)) →
  t = { s with intstat := t.intstat, inten := t.inten, agenda := t.agenda, reply := t.reply }

/-- R70: in phase READY no step of any agent changes `SLEN` or a byte of `SECRET`; a step that leaves phase READY leaves the secret
zeroised. -/
def Obligations.SecretLockedWhileReady : Prop := ∀ s t : State, s.Inv → s.ready = true → step s = .next t →
  (t.ready = true → t.slen = s.slen ∧ ∀ i < s.par.secretMax, t.byteAt 0x1000 i = s.byteAt 0x1000 i)
  ∧ (t.ready = false → t.slen = 0 ∧ ∀ i < s.par.secretMax, t.byteAt 0x1000 i = 0)

/-- R30: in phase READY the digit count and the type have nothing that changes them short of leaving the phase; and the parameter
never changes. -/
def Obligations.DigitsAndTypeFixedWhileReady : Prop := ∀ s t : State, step s = .next t →
  t.par = s.par ∧ (s.ready = true → t.ready = true → t.digits = s.digits ∧ t.typ = s.typ)

/-- R49: which commands can change which state (the write columns of the matrix), whether they succeed or fail. -/
def Obligations.CommandWriteMatrix : Prop := ∀ (i : Instr) (s t : State), s.par.Legal → exec i s = .next t →
  (t.ready ≠ s.ready → i.mnemonic ∈ ["INIT", "CLEAR"])
  ∧ (t.matched ≠ s.matched → i.mnemonic ∈ ["INIT", "CLEAR", "VERIFY"])
  ∧ (t.alg ≠ s.alg → i.mnemonic ∈ ["INIT", "CLEAR", "SETALG"])
  ∧ (t.typ ≠ s.typ ∨ t.digits ≠ s.digits → i.mnemonic ∈ ["INIT", "CLEAR"])
  ∧ (t.maxwin ≠ s.maxwin → i.mnemonic ∈ ["INIT", "CLEAR", "SETMAXW"])
  ∧ (t.timeStep ≠ s.timeStep → i.mnemonic ∈ ["INIT", "CLEAR", "SETSTEP"])
  ∧ (t.seq ≠ s.seq → i.mnemonic ∈ ["INIT", "CLEAR", "GEN", "VERIFY"])
  ∧ (t.opa ≠ s.opa ∨ t.window ≠ s.window ∨ t.clen ≠ s.clen → i.mnemonic = "CLEAR")
  ∧ (t.slen ≠ s.slen → i.mnemonic ∈ ["CLEAR", "B32DEC"])
  ∧ (t.tlen ≠ s.tlen → i.mnemonic ∈ ["CLEAR", "B32ENC"])
  ∧ (t.codelen ≠ s.codelen → i.mnemonic ∈ ["INIT", "CLEAR", "GEN"])
  ∧ (∀ k < s.par.secretMax, t.byteAt 0x1000 k ≠ s.byteAt 0x1000 k → i.mnemonic ∈ ["CLEAR", "B32DEC"])
  ∧ (∀ k < s.par.textMax, t.byteAt 0x2000 k ≠ s.byteAt 0x2000 k → i.mnemonic ∈ ["CLEAR", "B32ENC"])
  ∧ (∀ k < 16, t.byteAt 0x060 k ≠ s.byteAt 0x060 k → i.mnemonic = "CLEAR")
  ∧ ∀ k < 16, t.byteAt 0x070 k ≠ s.byteAt 0x070 k → i.mnemonic ∈ ["INIT", "CLEAR", "GEN"]

/-! ### The commands (40_base32.md, 43_hotp_commands.md, 44_totp_commands.md) -/

/-- R191: `INIT` constructs an instance, with the frame: the fields it names, `CODE` zeroed, every other byte as before. Its errors:
`IllegalCommand` for a digit count outside 1..10, `NotPermitted` in phase READY, `LengthError` for `SLEN > SECRET_MAX`. -/
def Obligations.InitConstructs : Prop := ∀ (ty : EngineType) (d : BitVec 4) (s : State),
  (1 ≤ d.toNat → d.toNat ≤ 10 → s.ready = false → s.slen.toNat ≤ s.par.secretMax →
    ∃ m : Memory, exec (.init ty d) s = .next ({ s with
        mem := m, typ := ty, digits := d, alg := .sha1, maxwin := if ty = EngineType.totp then 3 else 1, timeStep := 30, seq := 0,
        matched := false, codelen := 0, ready := true }.afterSuccess)
      ∧ (∀ j < 16, m.read (0x070 + j) = 0) ∧ ∀ a, ¬ (0x070 ≤ a ∧ a < 0x080) → m.read a = s.mem.read a)
  ∧ (1 ≤ d.toNat → d.toNat ≤ 10 → s.ready = true → exec (.init ty d) s = .next (s.afterError 0x11))
  ∧ (1 ≤ d.toNat → d.toNat ≤ 10 → s.ready = false → s.par.secretMax < s.slen.toNat →
    exec (.init ty d) s = .next (s.afterError 0x12))
  ∧ (d.toNat = 0 ∨ 10 < d.toNat → exec (.init ty d) s = .next (s.afterError 0x10))
  ∧ (encode (.init ty d)).toNat = 0x00000001 + (if ty = EngineType.totp then 2 ^ 8 else 0) + d.toNat * 2 ^ 16

/-- R192: `CLEAR` in either phase gives every piece of state its reset value but `INTEN`, `INTSTAT`, `TSAMP` and what the completion
writes; every byte of every buffer is 0. -/
def Obligations.ClearZeroizes : Prop := ∀ s : State, ∃ m : Memory,
  exec .clear s = .next ({ s with
    ready := false, matched := false, alg := .sha1, typ := .hotp, digits := 6, maxwin := 1, timeStep := 30, seq := 0, opa := 0,
    window := 1, slen := 0, tlen := 0, clen := 0, codelen := 0, mem := m }.afterSuccess)
  ∧ (∀ a, m.read a = 0) ∧ encode .clear = 0x00000002

/-- R284 with R192: after `CLEAR`, with `INTSTAT` then cleared and `INTEN = 0`, the state is the reset state but for `TSAMP`, which R192
keeps (log entry 5), and the model's own fields. Nothing can show the difference: in an idle state every step gives the same
reply and the same `irq` whatever `TSAMP` holds, and the step that ends the idle state overwrites `TSAMP`. -/
def Obligations.ClearedStateIsReset : Prop :=
  (∀ s t : State, s.inten = 0 → exec .clear s = .next t →
    { t with intstat := 0 }
      = { State.resetWith s.par with tsamp := s.tsamp, rst := s.rst, agenda := s.agenda, reply := s.reply })
  ∧ ∀ (s t : State) (q : DWord), s.busy = false → step s = .next t →
    ∃ t', step { s with tsamp := q } = .next t' ∧ t'.reply = t.reply ∧ irq t' = irq t
      ∧ (t' = t ∨ (t' = { t with tsamp := q } ∧ t.busy = false))

/-- R193: `SETALG` in phase READY sets `CFG.ALG` and nothing else; in phase EMPTY it is `NotPermitted`. -/
def Obligations.SetalgSwitchesAlgorithm : Prop := ∀ (a : Alg) (s : State),
  (s.ready = true → exec (.setalg a) s = .next ({ s with alg := a }.afterSuccess))
  ∧ (s.ready = false → exec (.setalg a) s = .next (s.afterError 0x11))
  ∧ (encode (.setalg a)).toNat = 0x00000003 + a.code.toNat * 2 ^ 16

/-- R194: `SETMAXW` in phase READY sets `CFG.MAXWIN` to `n` in 1..255 and nothing else; `n = 0` is `IllegalCommand` in every phase;
phase EMPTY is `NotPermitted`. -/
def Obligations.SetmaxwSetsWindow : Prop := ∀ (n : BitVec 8) (s : State),
  (n ≠ 0 → s.ready = true → exec (.setmaxw n) s = .next ({ s with maxwin := n }.afterSuccess))
  ∧ (n ≠ 0 → s.ready = false → exec (.setmaxw n) s = .next (s.afterError 0x11))
  ∧ (n = 0 → exec (.setmaxw n) s = .next (s.afterError 0x10))
  ∧ (encode (.setmaxw n)).toNat = 0x00000005 + n.toNat * 2 ^ 16

/-- R234: `SETSTEP` in phase READY, type totp, makes `OPA` the time step unless `OPA = 0` or `OPA[63] = 1`, which is
`InvalidTimeStep`; elsewhere it is `NotPermitted`. -/
def Obligations.SetstepRejectsNonPositive : Prop := ∀ s : State,
  (s.ready = true → s.typ = .totp → s.opa ≠ 0 → s.opa.getLsbD 63 = false →
    exec .setstep s = .next ({ s with timeStep := s.opa }.afterSuccess))
  ∧ (s.ready = true → s.typ = .totp → s.opa = 0 ∨ s.opa.getLsbD 63 = true → exec .setstep s = .next (s.afterError 0x03))
  ∧ (s.ready = false ∨ s.typ = .hotp → exec .setstep s = .next (s.afterError 0x11))
  ∧ encode .setstep = 0x00000004

/-- R197, R237: `GEN` in phase READY writes the code of the effective counter to `CODE`, zero bytes after it, `CODELEN`, and `SEQ` when
it used the default counter of type hotp; in phase EMPTY it is `NotPermitted`. -/
def Obligations.GenWritesCode : Prop := ∀ (d : Bool) (s : State),
  (s.ready = true → ∃ m : Memory, exec (.gen d) s = .next ({ s with
      mem := m, codelen := BitVec.ofNat 5 s.digits.toNat,
      seq := if d = true ∧ s.typ = EngineType.hotp then s.seq + 1 else s.seq }.afterSuccess)
    ∧ (∀ j < 16, m.read (0x070 + j) = (s.codeOf (s.counterNat d)).getD j 0#8)
    ∧ ∀ a, ¬ (0x070 ≤ a ∧ a < 0x080) → m.read a = s.mem.read a)
  ∧ (s.ready = false → exec (.gen d) s = .next (s.afterError 0x11))
  ∧ encode (.gen d) = if d = true then 0x00000110 else 0x00000010

/-- R205, R208, R209, R210: `VERIFY` in phase READY sets `MATCH` exactly when some counter of the clamped, centred window has a code equal
to the candidate, advances `SEQ` as `GEN` does, and writes nothing else; in phase EMPTY it is `NotPermitted`. -/
def Obligations.VerifySetsMatch : Prop := ∀ (d wd : Bool) (s : State),
  (s.ready = true → ∃ b : Bool, exec (.verify d wd) s = .next ({ s with
      matched := b, seq := if d = true ∧ s.typ = EngineType.hotp then s.seq + 1 else s.seq }.afterSuccess)
    ∧ (b = true ↔ ∃ i : Nat, (i : Int) < s.windowInt wd
        ∧ s.CandidateIs (s.codeOf (scanCounterNat (s.counterNat d) (s.windowInt wd) i))))
  ∧ (s.ready = false → exec (.verify d wd) s = .next (s.afterError 0x11))
  ∧ (encode (.verify d wd)).toNat = 0x00000011 + (if d = true then 2 ^ 8 else 0) + (if wd = true then 2 ^ 9 else 0)

/-- R123: `B32ENC` writes the text of the secret in the form its flags ask for, zero bytes after it, and its length; `SLEN > SECRET_MAX`
is `LengthError`; both flags together are `IllegalCommand`. -/
def Obligations.B32encWritesText : Prop := ∀ (pad grp : Bool) (s : State), s.par.Legal →
  ((pad = true → grp = false) → s.slen.toNat ≤ s.par.secretMax →
    ∃ (m : Memory) (t : Bytes),
      t = (if grp = true then groupText (b32Chars s.secretOf)
        else if pad = true then padText (b32Chars s.secretOf) else b32Chars s.secretOf)
      ∧ t.length ≤ s.par.textMax
      ∧ exec (.b32enc pad grp) s = .next ({ s with mem := m, tlen := BitVec.ofNat 16 t.length }.afterSuccess)
      ∧ (∀ j < s.par.textMax, m.read (0x2000 + j) = t.getD j 0#8)
      ∧ ∀ a, ¬ (0x2000 ≤ a ∧ a < 0x2000 + s.par.textMax) → m.read a = s.mem.read a)
  ∧ ((pad = true → grp = false) → s.par.secretMax < s.slen.toNat → exec (.b32enc pad grp) s = .next (s.afterError 0x12))
  ∧ (pad = true → grp = true → exec (.b32enc pad grp) s = .next (s.afterError 0x10))
  ∧ (encode (.b32enc pad grp)).toNat = 0x00000020 + (if pad = true then 2 ^ 8 else 0) + (if grp = true then 2 ^ 9 else 0)

/-- R124: `B32DEC` in phase EMPTY writes the decoded bytes to `SECRET`, zero bytes after them, and their number to `SLEN`; its errors in
the order of R258. -/
def Obligations.B32decWritesSecret : Prop := ∀ s : State,
  (∀ r, s.ready = false → s.tlen.toNat ≤ s.par.textMax → b32Decode s.textOf = some r → r.length ≤ s.par.secretMax →
    ∃ m : Memory, exec .b32dec s = .next ({ s with mem := m, slen := BitVec.ofNat 16 r.length }.afterSuccess)
      ∧ (∀ j < s.par.secretMax, m.read (0x1000 + j) = r.getD j 0#8)
      ∧ ∀ a, ¬ (0x1000 ≤ a ∧ a < 0x1000 + s.par.secretMax) → m.read a = s.mem.read a)
  ∧ (s.ready = true → exec .b32dec s = .next (s.afterError 0x11))
  ∧ (s.ready = false → s.par.textMax < s.tlen.toNat → exec .b32dec s = .next (s.afterError 0x12))
  ∧ (s.ready = false → s.tlen.toNat ≤ s.par.textMax → b32Decode s.textOf = none → exec .b32dec s = .next (s.afterError 0x01))
  ∧ (∀ r, s.ready = false → s.tlen.toNat ≤ s.par.textMax → b32Decode s.textOf = some r → s.par.secretMax < r.length →
    exec .b32dec s = .next (s.afterError 0x12))
  ∧ encode .b32dec = 0x00000021

/-- R195: with `DEF = 1` in type hotp, `GEN` and `VERIFY` do what they do with `OPA` holding the old `SEQ`, and leave `SEQ` advanced by one
modulo `2^64`. -/
def Obligations.DefaultCounterOfHotp : Prop := ∀ (s : State) (wd : Bool), s.ready = true → s.typ = .hotp →
  (∃ t u, exec (.gen true) s = .next t ∧ exec (.gen false) { s with opa := s.seq } = .next u
    ∧ t = { u with opa := s.opa, seq := BitVec.ofNat 64 (s.seq.toNat + 1) })
  ∧ ∃ t u, exec (.verify true wd) s = .next t ∧ exec (.verify false wd) { s with opa := s.seq } = .next u
    ∧ t = { u with opa := s.opa, seq := BitVec.ofNat 64 (s.seq.toNat + 1) }

/-- R232: with `DEF = 1` in type totp, `GEN` and `VERIFY` do what they do with `OPA` holding `TSAMP`; `SEQ` is neither read nor written. -/
def Obligations.DefaultCounterOfTotp : Prop := ∀ (s : State) (wd : Bool) (q : DWord), s.ready = true → s.typ = .totp →
  (∃ t u, exec (.gen true) s = .next t ∧ exec (.gen false) { s with opa := s.tsamp, seq := q } = .next u
    ∧ t = { u with opa := s.opa, seq := s.seq })
  ∧ ∃ t u, exec (.verify true wd) s = .next t ∧ exec (.verify false wd) { s with opa := s.tsamp, seq := q } = .next u
    ∧ t = { u with opa := s.opa, seq := s.seq }

/-! ### The pure functions (40_base32.md, 41_sha.md, 42_hmac_truncation.md) -/

/-- R120: every encoding of every byte string decodes to that byte string, plain, padded and grouped. -/
def Obligations.Base32RoundTrip : Prop := ∀ b : Bytes,
  b32Decode (b32Encode .plain b) = some b ∧ b32Decode (b32Encode .padded b) = some b ∧ b32Decode (b32Encode .grouped b) = some b

/-- R113, R114, R115: the lengths of the three output forms of `n` bytes. -/
def Obligations.EncodedLengths : Prop := ∀ b : Bytes,
  (b32Encode .plain b).length = (8 * b.length + 4) / 5
  ∧ (b32Encode .padded b).length = 8 * ((b.length + 4) / 5)
  ∧ (b32Encode .grouped b).length
    = (b32Encode .plain b).length + (((b32Encode .plain b).length + 3) / 4 - 1)

/-- R117, R118: normalisation drops the run of `=` at the end of the text, then takes each byte on its own: a letter to upper case, `0`
to `O`, `1` to `I`, a space away, every other byte as it is; decoding fails exactly when the result holds a byte outside `A`-`Z`,
`2`-`7`. -/
def Obligations.DecodeRejectsExactlyNonAlphabet : Prop :=
  (∀ (body : Bytes) (n : Nat), body.getLast? ≠ some 0x3D → b32Normalise (body ++ List.replicate n 0x3D)
    = body.flatMap fun c => if c = 0x20 then [] else if 0x61 ≤ c.toNat ∧ c.toNat ≤ 0x7A then [c - 0x20]
      else if c = 0x30 then [0x4F] else if c = 0x31 then [0x49] else [c])
  ∧ ∀ t : Bytes, b32Decode t = none
    ↔ ∃ c ∈ b32Normalise t, ¬ ((0x41 ≤ c.toNat ∧ c.toNat ≤ 0x5A) ∨ (0x32 ≤ c.toNat ∧ c.toNat ≤ 0x37))

/-- R142: `PadMsg` is the message, `0x80`, zero bytes and the big-endian bit length, of `B * (((len(M) + B/8) div B) + 1)` bytes. -/
def Obligations.PaddedMessageShape : Prop := ∀ (msg : Bytes) (blk : Nat), blk = 64 ∨ blk = 128 →
  (padMsg msg blk).length = blk * ((msg.length + blk / 8) / blk + 1)
  ∧ ∃ k, k < blk ∧ padMsg msg blk = msg ++ [0x80#8] ++ List.replicate k 0#8 ++ beBytes (8 * msg.length) (blk / 8)

/-- R146, R152, R158: the message schedules: the 16 words of the block, then the recurrence of each hash. -/
def Obligations.MessageScheduleRecurrence : Prop :=
  (∀ ms : List Word, ms.length = 16 → let W := fun t => (schedule sha1Next 80 ms).getD t 0
    (schedule sha1Next 80 ms).length = 80 ∧ (∀ t < 16, W t = ms.getD t 0)
    ∧ ∀ t, 16 ≤ t → t < 80 → W t = (W (t - 3) ^^^ W (t - 8) ^^^ W (t - 14) ^^^ W (t - 16)).rotateLeft 1)
  ∧ (∀ ms : List Word, ms.length = 16 → let W := fun t => (schedule (sha2Next sha256Fns) 64 ms).getD t 0
    (schedule (sha2Next sha256Fns) 64 ms).length = 64 ∧ (∀ t < 16, W t = ms.getD t 0)
    ∧ ∀ t, 16 ≤ t → t < 64 →
      W t = ((W (t - 2)).rotateRight 17 ^^^ (W (t - 2)).rotateRight 19 ^^^ W (t - 2) >>> 10) + W (t - 7)
        + ((W (t - 15)).rotateRight 7 ^^^ (W (t - 15)).rotateRight 18 ^^^ W (t - 15) >>> 3) + W (t - 16))
  ∧ ∀ ms : List DWord, ms.length = 16 → let W := fun t => (schedule (sha2Next sha512Fns) 80 ms).getD t 0
    (schedule (sha2Next sha512Fns) 80 ms).length = 80 ∧ (∀ t < 16, W t = ms.getD t 0)
    ∧ ∀ t, 16 ≤ t → t < 80 →
      W t = ((W (t - 2)).rotateRight 19 ^^^ (W (t - 2)).rotateRight 61 ^^^ W (t - 2) >>> 6) + W (t - 7)
        + ((W (t - 15)).rotateRight 1 ^^^ (W (t - 15)).rotateRight 8 ^^^ W (t - 15) >>> 7) + W (t - 16)

/-- R170, R171: the HMAC is `H(opad ++ H(ipad ++ msg))` over a key of exactly one block: the given key, or its digest when it is longer
than a block, followed by zero bytes. So a long key acts as its digest does, and zero bytes appended up to a whole block do not
change the HMAC. -/
def Obligations.HmacKeyCases : Prop := ∀ (alg : Alg) (key msg : Bytes),
  (∃ k0 : Bytes, k0.length = blockSize alg
    ∧ (∀ i < blockSize alg, k0.getD i 0#8 = (if key.length ≤ blockSize alg then key else hash alg key).getD i 0#8)
    ∧ hmac alg key msg = hash alg ((k0.map fun b => b ^^^ 0x5C) ++ hash alg ((k0.map fun b => b ^^^ 0x36) ++ msg)))
  ∧ (blockSize alg < key.length → hmac alg key msg = hmac alg (hash alg key) msg)
  ∧ ∀ n, key.length + n ≤ blockSize alg → hmac alg (key ++ List.replicate n 0#8) msg = hmac alg key msg

/-- R173 to R176: the digest of every HMAC has the algorithm's length, the offset is the low 4 bits of its last byte, the four bytes that
the truncation reads stand at indexes 0 to 18, and the result is their big-endian integer without its top bit. So two byte
strings of one length that agree on bytes 0 to 18 and on the last byte have the same truncation. -/
def Obligations.TruncationOfDigest : Prop :=
  (∀ (alg : Alg) (key msg : Bytes),
    (hmac alg key msg).length = digestSize alg
    ∧ truncOffset (hmac alg key msg) = ((hmac alg key msg).getD (digestSize alg - 1) 0#8).toNat % 16
    ∧ truncOffset (hmac alg key msg) + 3 ≤ 18
    ∧ dynTrunc (hmac alg key msg) = beInt (((hmac alg key msg).drop (truncOffset (hmac alg key msg))).take 4) % 2 ^ 31)
  ∧ ∀ dg dg' : Bytes, dg.length = dg'.length → (∀ i ≤ 18, dg.getD i 0#8 = dg'.getD i 0#8) →
    dg.getD (dg.length - 1) 0#8 = dg'.getD (dg.length - 1) 0#8 → dynTrunc dg = dynTrunc dg'

/-- R177, R178, R179: a code has length exactly `d`, its byte `j` is the ASCII digit of weight `10^(d-1-j)` of the truncated value
modulo `10^d`, so it consists only of digits, and it is the last `d` characters of the code for any larger count. -/
def Obligations.CodeShape : Prop := ∀ (secret : Bytes) (alg : Alg) (d : Nat) (ctr : DWord),
  codeStr secret alg d ctr = renderDigits (codeValue (dynTrunc (hmac alg secret (counterMsg ctr))) d) d
  ∧ (codeStr secret alg d ctr).length = d
  ∧ (∀ j < d, ((codeStr secret alg d ctr).getD j 0#8).toNat
    = 0x30 + dynTrunc (hmac alg secret (counterMsg ctr)) % 10 ^ d / 10 ^ (d - 1 - j) % 10)
  ∧ (∀ c ∈ codeStr secret alg d ctr, 0x30 ≤ c.toNat ∧ c.toNat ≤ 0x39)
  ∧ ∀ k, codeStr secret alg d ctr = (codeStr secret alg (d + k) ctr).drop k

/-- R236: in type totp two timestamps have the same effective counter exactly when they lie in the same interval of `STEP` seconds,
and then generate the same code; the first interval has counter 0, a step of 1 is the identity, and the values at the step 30. -/
def Obligations.TransformIntervals : Prop := ∀ (s : State) (x y : DWord), s.typ = .totp → 1 ≤ s.timeStep.toNat →
  (s.transform x = s.transform y ↔ ∃ k, k * s.timeStep.toNat ≤ x.toNat ∧ x.toNat ≤ k * s.timeStep.toNat + s.timeStep.toNat - 1
    ∧ k * s.timeStep.toNat ≤ y.toNat ∧ y.toNat ≤ k * s.timeStep.toNat + s.timeStep.toNat - 1)
  ∧ (∀ k, k * s.timeStep.toNat ≤ x.toNat → x.toNat ≤ k * s.timeStep.toNat + s.timeStep.toNat - 1 →
    k * s.timeStep.toNat ≤ y.toNat → y.toNat ≤ k * s.timeStep.toNat + s.timeStep.toNat - 1 → s.ready = true →
    ∃ t u, exec (.gen false) { s with opa := x } = .next t ∧ exec (.gen false) { s with opa := y } = .next u
      ∧ t = { u with opa := x })
  ∧ (x.toNat ≤ s.timeStep.toNat - 1 → s.transform x = 0) ∧ (s.timeStep = 1 → s.transform x = x)
  ∧ (s.timeStep = 30 → s.transform 59 = 1 ∧ s.transform 60 = 2 ∧ s.transform 1111111109 = 37037036
    ∧ s.transform 1111111111 = 37037037 ∧ s.transform 20000000000 = 666666666)

/-- R208: the counters of a scan of `w` counters are consecutive modulo `2^64` from `ctr + 1 - ceil(w/2)`; those below `ctr`, `ctr` itself
and those above it stand at the places the rule gives. -/
def Obligations.ScanIsCentred : Prop := ∀ (ctr : DWord) (w : Nat), 1 ≤ w → w ≤ 255 →
  (scanCounters ctr w).length = w
  ∧ (∀ i < w, (scanCounters ctr w)[i]?.map BitVec.toNat = some (scanCounterNat ctr.toNat w i))
  ∧ (scanCounters ctr w)[(w + 1) / 2 - 1]? = some ctr
  ∧ (scanCounters ctr w).getLast? = some (ctr + BitVec.ofNat 64 (w / 2))

/-- R207: the clamp lies in `[1, MAXWIN]`, is the request when that lies there, and does not depend on the order of `min` and `max`. -/
def Obligations.WindowIsClamped : Prop := ∀ (win : Int) (mw : Nat), 1 ≤ mw →
  1 ≤ clampWindow win mw ∧ clampWindow win mw ≤ mw
  ∧ (win ≤ 0 → clampWindow win mw = 1) ∧ (1 ≤ win → win ≤ mw → (clampWindow win mw : Int) = win)
  ∧ ((mw : Int) < win → clampWindow win mw = mw)
  ∧ (clampWindow win mw : Int) = max (min win mw) 1

/-! ### Whole-machine results -/

/-- R211: a code that `GEN` has just made for a counter that `OPA` supplies is accepted by `VERIFY` for the same counter, with any window
and any algorithm, in both types; and `VERIFY` gives `MATCH = 0` for a candidate that is the code of no counter of its window. -/
def Obligations.VerifyAcceptsGeneratedCode : Prop :=
  (∀ (s t u : State) (wd : Bool), s.ready = true → 1 ≤ s.maxwin.toNat → exec (.gen false) s = .next t →
    u.ready = true → u.alg = s.alg → u.typ = s.typ → u.digits = s.digits → u.timeStep = s.timeStep → u.opa = s.opa →
    u.maxwin = s.maxwin → u.slen = s.slen → (∀ i < s.slen.toNat, u.byteAt 0x1000 i = t.byteAt 0x1000 i) →
    u.clen.toNat = t.codelen.toNat → (∀ j < 16, u.byteAt 0x060 j = t.byteAt 0x070 j) →
    ∃ r, exec (.verify false wd) u = .next r ∧ r.matched = true ∧ r.err = 0)
  ∧ ∀ (s t : State) (wd : Bool), s.ready = true → exec (.verify false wd) s = .next t →
    (∀ i : Nat, (i : Int) < s.windowInt wd →
      (List.range s.clen.toNat).map (s.byteAt 0x060) ≠ s.codeOf (scanCounterNat (s.counterNat false) (s.windowInt wd) i)) →
    t.matched = false

/-- R120, R123, R124: a secret exported by `B32ENC`, in any form, and read back by `B32DEC` is the same secret. -/
def Obligations.ExportedSecretReadsBack : Prop := ∀ (s : State) (pad grp : Bool),
  s.par.Legal → s.ready = false → s.slen.toNat ≤ s.par.secretMax → (pad = true → grp = false) →
  ∃ t u, exec (.b32enc pad grp) s = .next t ∧ exec .b32dec t = .next u ∧ u.err = 0 ∧ u.slen = s.slen
    ∧ (∀ i < s.slen.toNat, u.byteAt 0x1000 i = s.byteAt 0x1000 i)
    ∧ ∀ i, s.slen.toNat ≤ i → i < s.par.secretMax → u.byteAt 0x1000 i = 0

/-- R39: bytes of `SECRET` at and beyond `SLEN` are never read by any command: two states that differ only there complete every command
with states that differ at most there. -/
def Obligations.SecretTailNeverRead : Prop := ∀ (i : Instr) (s : State) (m : Memory), s.par.Legal →
  (∀ a, ¬ (0x1000 + s.slen.toNat ≤ a ∧ a < 0x1000 + s.par.secretMax) → m.read a = s.mem.read a) →
  ∃ t t', exec i s = .next t ∧ exec i { s with mem := m } = .next t' ∧ t' = { t with mem := t'.mem }
    ∧ ∀ a, ¬ (0x1000 + s.slen.toNat ≤ a ∧ a < 0x1000 + s.par.secretMax) → t'.mem.read a = t.mem.read a

/-- R38, R42, R179: every step keeps this: the first `CODELEN` bytes of `CODE` are ASCII digits and the others are 0. -/
def Obligations.CodeHoldsDigits : Prop := ∀ s t : State, s.Inv →
  (∀ j < 16, (j < s.codelen.toNat → 0x30 ≤ (s.byteAt 0x070 j).toNat ∧ (s.byteAt 0x070 j).toNat ≤ 0x39)
    ∧ (s.codelen.toNat ≤ j → s.byteAt 0x070 j = 0)) →
  step s = .next t →
  ∀ j < 16, (j < t.codelen.toNat → 0x30 ≤ (t.byteAt 0x070 j).toNat ∧ (t.byteAt 0x070 j).toNat ≤ 0x39)
    ∧ (t.codelen.toNat ≤ j → t.byteAt 0x070 j = 0)

/-! ### Inside the hashes (41_sha.md) -/

/-- R144, R147, R149, R153, R155, R159: the compression of a block is the round of its hash, 80, 64 and 80 times over the working
variables, each round with its schedule word and its constant, and then the addition of the hash value. -/
def Obligations.HashRounds : Prop :=
  (∀ (h : Sha1Vars) (blk : Bytes), ∃ v : Nat → Sha1Vars, v 0 = h
    ∧ (∀ t < 80, v (t + 1) =
      { a := (v t).a.rotateLeft 5
          + (if t < 20 then ((v t).b &&& (v t).c) ^^^ (~~~(v t).b &&& (v t).d)
            else if 40 ≤ t ∧ t < 60 then ((v t).b &&& (v t).c) ^^^ ((v t).b &&& (v t).d) ^^^ ((v t).c &&& (v t).d)
            else (v t).b ^^^ (v t).c ^^^ (v t).d)
          + (v t).e
          + (if t < 20 then 0x5a827999 else if t < 40 then 0x6ed9eba1 else if t < 60 then 0x8f1bbcdc else 0xca62c1d6)
          + (schedule sha1Next 80 (blockWords 32 blk)).getD t 0
        b := (v t).a, c := (v t).b.rotateLeft 30, d := (v t).c, e := (v t).d })
    ∧ sha1Compress h blk = ⟨(v 80).a + h.a, (v 80).b + h.b, (v 80).c + h.c, (v 80).d + h.d, (v 80).e + h.e⟩)
  ∧ (∀ (h : Sha2Vars 32) (blk : Bytes), ∃ (v : Nat → Sha2Vars 32) (T : Nat → Word), v 0 = h
    ∧ (∀ t < 64, T t = (v t).h + ((v t).e.rotateRight 6 ^^^ (v t).e.rotateRight 11 ^^^ (v t).e.rotateRight 25)
        + (((v t).e &&& (v t).f) ^^^ (~~~(v t).e &&& (v t).g)) + sha256K.getD t 0
        + (schedule (sha2Next sha256Fns) 64 (blockWords 32 blk)).getD t 0
      ∧ v (t + 1) =
        { a := T t + (((v t).a.rotateRight 2 ^^^ (v t).a.rotateRight 13 ^^^ (v t).a.rotateRight 22)
            + (((v t).a &&& (v t).b) ^^^ ((v t).a &&& (v t).c) ^^^ ((v t).b &&& (v t).c)))
          b := (v t).a, c := (v t).b, d := (v t).c, e := (v t).d + T t, f := (v t).e, g := (v t).f, h := (v t).g })
    ∧ sha2Compress sha256Fns h blk = ⟨(v 64).a + h.a, (v 64).b + h.b, (v 64).c + h.c, (v 64).d + h.d,
      (v 64).e + h.e, (v 64).f + h.f, (v 64).g + h.g, (v 64).h + h.h⟩)
  ∧ ∀ (h : Sha2Vars 64) (blk : Bytes), ∃ (v : Nat → Sha2Vars 64) (T : Nat → DWord), v 0 = h
    ∧ (∀ t < 80, T t = (v t).h + ((v t).e.rotateRight 14 ^^^ (v t).e.rotateRight 18 ^^^ (v t).e.rotateRight 41)
        + (((v t).e &&& (v t).f) ^^^ (~~~(v t).e &&& (v t).g)) + (sha512KLo ++ sha512KHi).getD t 0
        + (schedule (sha2Next sha512Fns) 80 (blockWords 64 blk)).getD t 0
      ∧ v (t + 1) =
        { a := T t + (((v t).a.rotateRight 28 ^^^ (v t).a.rotateRight 34 ^^^ (v t).a.rotateRight 39)
            + (((v t).a &&& (v t).b) ^^^ ((v t).a &&& (v t).c) ^^^ ((v t).b &&& (v t).c)))
          b := (v t).a, c := (v t).b, d := (v t).c, e := (v t).d + T t, f := (v t).e, g := (v t).f, h := (v t).g })
    ∧ sha2Compress sha512Fns h blk = ⟨(v 80).a + h.a, (v 80).b + h.b, (v 80).c + h.c, (v 80).d + h.d,
      (v 80).e + h.e, (v 80).f + h.f, (v 80).g + h.g, (v 80).h + h.h⟩

/-- R143, R145, R148, R151, R154, R157, R160: a hash starts from its initial value, compresses the blocks of the padded message in order,
and gives the big-endian bytes of the last hash value; the 16 words of a block are its big-endian words in order. -/
def Obligations.HashChains : Prop :=
  (∀ msg : Bytes, ∃ H : Nat → Sha1Vars, H 0 = ⟨0x67452301, 0xefcdab89, 0x98badcfe, 0x10325476, 0xc3d2e1f0⟩
    ∧ (∀ i < (padMsg msg 64).length / 64, H (i + 1) = sha1Compress (H i) (((padMsg msg 64).drop (64 * i)).take 64))
    ∧ ∀ n, n = (padMsg msg 64).length / 64 → sha1 msg = beBytes (H n).a.toNat 4 ++ beBytes (H n).b.toNat 4
      ++ beBytes (H n).c.toNat 4 ++ beBytes (H n).d.toNat 4 ++ beBytes (H n).e.toNat 4)
  ∧ (∀ msg : Bytes, ∃ H : Nat → Sha2Vars 32,
    H 0 = ⟨0x6a09e667, 0xbb67ae85, 0x3c6ef372, 0xa54ff53a, 0x510e527f, 0x9b05688c, 0x1f83d9ab, 0x5be0cd19⟩
    ∧ (∀ i < (padMsg msg 64).length / 64, H (i + 1) = sha2Compress sha256Fns (H i) (((padMsg msg 64).drop (64 * i)).take 64))
    ∧ ∀ n, n = (padMsg msg 64).length / 64 → sha256 msg = beBytes (H n).a.toNat 4 ++ beBytes (H n).b.toNat 4
      ++ beBytes (H n).c.toNat 4 ++ beBytes (H n).d.toNat 4 ++ beBytes (H n).e.toNat 4 ++ beBytes (H n).f.toNat 4
      ++ beBytes (H n).g.toNat 4 ++ beBytes (H n).h.toNat 4)
  ∧ (∀ msg : Bytes, ∃ H : Nat → Sha2Vars 64,
    H 0 = ⟨0x6a09e667f3bcc908, 0xbb67ae8584caa73b, 0x3c6ef372fe94f82b, 0xa54ff53a5f1d36f1, 0x510e527fade682d1,
      0x9b05688c2b3e6c1f, 0x1f83d9abfb41bd6b, 0x5be0cd19137e2179⟩
    ∧ (∀ i < (padMsg msg 128).length / 128, H (i + 1) = sha2Compress sha512Fns (H i) (((padMsg msg 128).drop (128 * i)).take 128))
    ∧ ∀ n, n = (padMsg msg 128).length / 128 → sha512 msg = beBytes (H n).a.toNat 8 ++ beBytes (H n).b.toNat 8
      ++ beBytes (H n).c.toNat 8 ++ beBytes (H n).d.toNat 8 ++ beBytes (H n).e.toNat 8 ++ beBytes (H n).f.toNat 8
      ++ beBytes (H n).g.toNat 8 ++ beBytes (H n).h.toNat 8)
  ∧ ∀ blk : Bytes, (blockWords 32 blk).length = 16 ∧ (blockWords 64 blk).length = 16
    ∧ (∀ t < 16, (blockWords 32 blk).getD t 0 = BitVec.ofNat 32 (beInt ((blk.drop (4 * t)).take 4)))
    ∧ ∀ t < 16, (blockWords 64 blk).getD t 0 = BitVec.ofNat 64 (beInt ((blk.drop (8 * t)).take 8))
end

