-- ==== Sys2Proof/Laws/Bytes.lean ====
section
/-!
SUPPORT. Lemmas about byte strings: lengths and inverses of `be_bytes` and `be_int`, digit expansions, the lengths and the
alphabet facts of the Base32 codec, the lengths of the hashes' padded messages and of the rendered code.
-/

namespace Sys2Proof.Machine

/-! ### be_bytes and be_int -/

@[simp] theorem beBytes_length (x n : Nat) : (beBytes x n).length = n := by simp [beBytes]

theorem beBytes_succ (x n : Nat) : beBytes x (n + 1) = beBytes (x / 256) n ++ [BitVec.ofNat 8 x] := by
  simp only [beBytes, List.range_succ, List.map_append, List.map_cons, List.map_nil]
  congr 1
  · refine List.map_congr_left fun i hi => ?_
    have hi := List.mem_range.mp hi
    rw [Nat.div_div_eq_div_mul, show n + 1 - 1 - i = (n - 1 - i) + 1 by omega, Nat.pow_succ, Nat.mul_comm]
  · simp

@[simp] theorem beInt_nil : beInt [] = 0 := rfl

theorem beInt_concat (s : Bytes) (b : Byte) : beInt (s ++ [b]) = beInt s * 256 + b.toNat := by simp [beInt]

theorem beInt_lt (s : Bytes) : beInt s < 256 ^ s.length := by
  induction s using List.reverseRecOn with
  | nil => simp
  | append_singleton s b ih =>
    have hb : b.toNat < 256 := b.isLt
    rw [beInt_concat, List.length_append, List.length_singleton, Nat.pow_succ]
    omega

/-- `be_int` of `be_bytes(x, n)` is `x` modulo `2^(8n)`. -/
theorem beInt_beBytes (x n : Nat) : beInt (beBytes x n) = x % 256 ^ n := by
  induction n generalizing x with
  | zero => simp [beBytes, Nat.mod_one]
  | succ n ih =>
    rw [beBytes_succ, beInt_concat, ih, Nat.pow_succ, Nat.mul_comm (256 ^ n) 256, Nat.mod_mul]
    simp; omega

/-- `be_bytes` of `be_int` gives a byte string back. -/
theorem beBytes_beInt (s : Bytes) : beBytes (beInt s) s.length = s := by
  induction s using List.reverseRecOn with
  | nil => rfl
  | append_singleton s b ih =>
    have hb : b.toNat < 256 := b.isLt
    rw [List.length_append, List.length_singleton, beBytes_succ, beInt_concat,
      show (beInt s * 256 + b.toNat) / 256 = beInt s by omega, ih]
    congr 2
    refine BitVec.eq_of_toNat_eq ?_
    simp; omega

/-- A fold over the `n` digits of `v` in base `base`, most significant first, gives `v` modulo `base^n`. -/
theorem foldl_digits (base v n : Nat) :
    ((List.range n).map fun i => v / base ^ (n - 1 - i) % base).foldl (fun acc d => acc * base + d) 0 = v % base ^ n := by
  induction n generalizing v with
  | zero => simp [Nat.mod_one]
  | succ n ih =>
    have h : (List.range n).map (fun i => v / base ^ (n + 1 - 1 - i) % base)
        = (List.range n).map fun i => v / base / base ^ (n - 1 - i) % base := by
      refine List.map_congr_left fun i hi => ?_
      have hi := List.mem_range.mp hi
      rw [Nat.div_div_eq_div_mul, show n + 1 - 1 - i = (n - 1 - i) + 1 by omega, Nat.pow_succ, Nat.mul_comm]
    rw [List.range_succ, List.map_append, List.foldl_append, h, ih, Nat.pow_succ, Nat.mul_comm (base ^ n), Nat.mod_mul]
    simp; ring

/-! ### Base32 -/

@[simp] theorem b32Chars_length (b : Bytes) : (b32Chars b).length = charCount b.length := by simp [b32Chars]

/-- Every character of an encoding is `Alpha` of a 5-bit value. -/
theorem b32Chars_alpha (b : Bytes) : ∀ c ∈ b32Chars b, ∃ v < 32, c = alpha v := by
  intro c hc
  obtain ⟨i, -, rfl⟩ := List.mem_map.mp hc
  exact ⟨_, Nat.mod_lt _ (by omega), rfl⟩

/-- `Alpha` and `Val` are inverse on the 5-bit values, and normalisation leaves alphabet characters alone. -/
theorem alpha_facts : ∀ v < 32, inAlphabet (alpha v) = true ∧ val (alpha v) = v ∧ alpha v ≠ padChar ∧ alpha v ≠ spaceChar
    ∧ upperCase (alpha v) = alpha v ∧ unambiguous (alpha v) = alpha v := by decide

theorem padText_length (t : Bytes) : (padText t).length = t.length + (8 - t.length % 8) % 8 := by simp [padText]

/-- Grouping adds one space for every full block of 4 that is not the last (R115). -/
theorem groupText_length (t : Bytes) : (groupText t).length = t.length + (t.length - 1) / 4 := by
  induction t using groupText.induct with
  | case1 a b c d e rest ih => simp [groupText, ih]; omega
  | case2 t h =>
    have ht : t.length ≤ 4 := by
      match t with
      | [] | [_] | [_, _] | [_, _, _] | [_, _, _, _] => simp
      | a :: b :: c :: d :: e :: rest => exact absurd rfl (h a b c d e rest)
    have : groupText t = t := by
      unfold groupText
      split
      · exact absurd rfl (h _ _ _ _ _ _)
      · rfl
    rw [this]; omega

/-- Removing the spaces undoes grouping. -/
theorem groupText_filter (t : Bytes) : (groupText t).filter (· != spaceChar) = t.filter (· != spaceChar) := by
  induction t using groupText.induct with
  | case1 a b c d e rest ih =>
    simp only [groupText, List.filter_cons, ih]
    simp
  | case2 t h =>
    have : groupText t = t := by
      unfold groupText
      split
      · exact absurd rfl (h _ _ _ _ _ _)
      · rfl
    rw [this]

@[simp] theorem textBytes_length (u : Bytes) : (textBytes u).length = 5 * u.length / 8 := by simp [textBytes]

/-- A decoding succeeds exactly on a valid text, and then has `(5m) div 8` bytes. -/
theorem b32Decode_some {t r : Bytes} (h : b32Decode t = some r) :
    (b32Normalise t).all inAlphabet = true ∧ r = textBytes (b32Normalise t) := by
  unfold b32Decode at h
  simp only [Option.ite_none_right_eq_some] at h
  exact ⟨h.1, (Option.some.inj h.2).symm⟩

/-! ### Hashes and rendering -/

/-- `PadMsg` gives whole blocks (R142). -/
theorem padMsg_length (msg : Bytes) (blk : Nat) (h : blk = 64 ∨ blk = 128) :
    (padMsg msg blk).length = blk * ((msg.length + blk / 8) / blk + 1) := by
  simp only [padMsg, padZeros, List.length_append, List.length_replicate, List.length_singleton, beBytes_length]
  rcases h with rfl | rfl <;> omega

@[simp] theorem sha1Digest_length (v : Sha1Vars) : (sha1Digest v).length = 20 := by simp [sha1Digest]

theorem sha2Digest_length {w : Nat} (v : Sha2Vars w) : (sha2Digest v).length = 8 * (w / 8) := by
  simp [sha2Digest]; omega

/-- The digest sizes of R141. -/
theorem hash_length (alg : Alg) (msg : Bytes) : (hash alg msg).length = digestSize alg := by
  cases alg
  · exact sha1Digest_length _
  · exact sha2Digest_length _
  · exact sha2Digest_length _

theorem hmac_length (alg : Alg) (key msg : Bytes) : (hmac alg key msg).length = digestSize alg := hash_length _ _

@[simp] theorem renderDigits_length (v d : Nat) : (renderDigits v d).length = d := by simp [renderDigits]

@[simp] theorem codeStr_length (secret : Bytes) (alg : Alg) (d : Nat) (ctr : DWord) : (codeStr secret alg d ctr).length = d := by
  simp [codeStr]

/-- Byte `j` of a rendering (R178). -/
theorem renderDigits_getD (v d j : Nat) (h : j < d) :
    (renderDigits v d).getD j 0#8 = BitVec.ofNat 8 (0x30 + v / 10 ^ (d - 1 - j) % 10) := by
  simp [renderDigits, List.getD, List.getElem?_range h]

end Sys2Proof.Machine
end

