-- ==== Sys2Proof/Laws/Memory.lean ====
section
/-!
SUPPORT. The laws of the sparse memory: read after write, canonical form, extensionality, and the same for whole byte strings
and whole buffers.
-/

namespace Sys2Proof.Machine

@[simp] theorem Memory.read_nil (a : Nat) : Memory.read [] a = 0#8 := rfl

theorem Memory.read_cons (c : Host.Cell) (m : Memory) (a : Nat) :
    Memory.read (c :: m) a = if c.1 = a then c.2 else Memory.read m a := rfl

theorem Memory.read_erase (m : Memory) (a x : Nat) :
    (m.erase a).read x = if x = a then 0#8 else m.read x := by
  induction m with
  | nil => simp [Memory.erase]
  | cons c m ih =>
    by_cases h : c.1 = a
    · have : Memory.erase (c :: m) a = Memory.erase m a := by simp [Memory.erase, h]
      rw [this, ih, Memory.read_cons]
      grind
    · have : Memory.erase (c :: m) a = c :: Memory.erase m a := by simp [Memory.erase, h]
      rw [this, Memory.read_cons, ih, Memory.read_cons]
      grind

theorem Memory.read_insert (m : Memory) (a : Nat) (b : Byte) (x : Nat) (h : ∀ c ∈ m, c.1 ≠ a) :
    (m.insert a b).read x = if x = a then b else m.read x := by
  induction m with
  | nil => simp [Memory.insert, Memory.read_cons, eq_comm]
  | cons c m ih =>
    have hc : c.1 ≠ a := h c (by simp)
    have ih := ih fun d hd => h d (by simp [hd])
    simp only [Memory.insert]
    split
    · rw [Memory.read_cons, ih, Memory.read_cons]; grind
    · rw [Memory.read_cons, Memory.read_cons]; grind

theorem Memory.mem_erase {m : Memory} {a : Nat} {c : Host.Cell} : c ∈ m.erase a ↔ c ∈ m ∧ c.1 ≠ a := by
  simp [Memory.erase]

/-- Read after write: the written byte at its offset, every other byte as before. -/
@[simp] theorem Memory.read_write (m : Memory) (a : Nat) (b : Byte) (x : Nat) :
    (m.write a b).read x = if x = a then b else m.read x := by
  unfold Memory.write
  split
  · rename_i h; rw [Memory.read_erase, h]; rfl
  · rw [Memory.read_insert _ _ _ _ fun c hc => (Memory.mem_erase.mp hc).2, Memory.read_erase]; grind

theorem Memory.mem_insert {m : Memory} {a : Nat} {b : Byte} {c : Host.Cell} :
    c ∈ m.insert a b ↔ c = (a, b) ∨ c ∈ m := by
  induction m with
  | nil => simp [Memory.insert]
  | cons d m ih =>
    simp only [Memory.insert]
    split
    · simp [ih]; tauto
    · simp

theorem Memory.erase_wf {m : Memory} (h : Memory.wf m) (a : Nat) : Memory.wf (m.erase a) :=
  ⟨h.1.filter _, fun c hc => h.2 c (Memory.mem_erase.mp hc).1⟩

theorem Memory.insert_sorted {m : Memory} {a : Nat} {b : Byte} (h : m.Pairwise fun c d => c.1 < d.1)
    (ha : ∀ c ∈ m, c.1 ≠ a) : (m.insert a b).Pairwise fun c d => c.1 < d.1 := by
  induction m with
  | nil => simp [Memory.insert]
  | cons c m ih =>
    obtain ⟨hc, hm⟩ := List.pairwise_cons.mp h
    have hca : c.1 ≠ a := ha c (by simp)
    simp only [Memory.insert]
    split
    · refine List.pairwise_cons.mpr ⟨fun d hd => ?_, ih hm fun d hd => ha d (by simp [hd])⟩
      rcases Memory.mem_insert.mp hd with rfl | hd
      · assumption
      · exact hc d hd
    · refine List.pairwise_cons.mpr ⟨fun d hd => ?_, h⟩
      rcases List.mem_cons.mp hd with rfl | hd
      · simp only; omega
      · have := hc d hd; simp only; omega

/-- A write keeps the canonical form. -/
theorem Memory.write_wf {m : Memory} (h : Memory.wf m) (a : Nat) (b : Byte) : Memory.wf (m.write a b) := by
  unfold Memory.write
  split
  · exact Memory.erase_wf h a
  · rename_i hb
    refine ⟨Memory.insert_sorted (Memory.erase_wf h a).1 fun c hc => (Memory.mem_erase.mp hc).2, fun c hc => ?_⟩
    rcases Memory.mem_insert.mp hc with rfl | hc
    · exact hb
    · exact (Memory.erase_wf h a).2 c hc

/-- Where the entries of a memory come from after a write. -/
theorem Memory.mem_write {m : Memory} {a : Nat} {b : Byte} {c : Host.Cell} (h : c ∈ m.write a b) : c.1 = a ∨ c ∈ m := by
  unfold Memory.write at h
  split at h
  · exact .inr (Memory.mem_erase.mp h).1
  · rcases Memory.mem_insert.mp h with rfl | h
    · exact .inl rfl
    · exact .inr (Memory.mem_erase.mp h).1

@[simp] theorem Memory.writeBytes_nil (m : Memory) (a : Nat) : m.writeBytes a [] = m := by
  cases m <;> rfl

@[simp] theorem Memory.writeBytes_cons (m : Memory) (a : Nat) (b : Byte) (bs : Bytes) :
    m.writeBytes a (b :: bs) = (m.write a b).writeBytes (a + 1) bs := by
  cases m <;> rfl

/-- Read after a write of a byte string: its bytes inside its range, every other byte as before. -/
theorem Memory.read_writeBytes (m : Memory) (a : Nat) (bs : Bytes) (x : Nat) :
    (m.writeBytes a bs).read x = if a ≤ x ∧ x < a + bs.length then bs.getD (x - a) 0#8 else m.read x := by
  induction bs generalizing m a with
  | nil => simp
  | cons b bs ih =>
    rw [Memory.writeBytes_cons, ih, Memory.read_write]
    simp only [List.length_cons]
    rcases Nat.lt_trichotomy x a with h | h | h
    · rw [if_neg (by omega), if_neg (by omega), if_neg (by omega)]
    · subst h
      rw [if_neg (by omega), if_pos rfl, if_pos (by omega)]
      simp
    · obtain ⟨k, rfl⟩ : ∃ k, x = a + 1 + k := ⟨x - (a + 1), by omega⟩
      by_cases hk : k < bs.length
      · rw [if_pos (by omega), if_pos (by omega), show a + 1 + k - (a + 1) = k by omega, show a + 1 + k - a = k + 1 by omega]
        simp
      · rw [if_neg (by omega), if_neg (by omega), if_neg (by omega)]

/-- A write of a byte string keeps the canonical form. -/
theorem Memory.writeBytes_wf {m : Memory} (h : Memory.wf m) (a : Nat) (bs : Bytes) : Memory.wf (m.writeBytes a bs) := by
  induction bs generalizing m a with
  | nil => simpa using h
  | cons b bs ih => rw [Memory.writeBytes_cons]; exact ih (Memory.write_wf h a b) _

/-- Where the entries of a memory come from after a write of a byte string. -/
theorem Memory.mem_writeBytes {m : Memory} {a : Nat} {bs : Bytes} {c : Host.Cell} (h : c ∈ m.writeBytes a bs) :
    (a ≤ c.1 ∧ c.1 < a + bs.length) ∨ c ∈ m := by
  induction bs generalizing m a with
  | nil => exact .inr (by simpa using h)
  | cons b bs ih =>
    rw [Memory.writeBytes_cons] at h
    rcases ih h with h | h
    · left; simp only [List.length_cons]; omega
    · rcases Memory.mem_write h with h | h
      · left; simp only [List.length_cons]; omega
      · exact .inr h

@[simp] theorem Memory.readBytes_length (m : Memory) (a n : Nat) : (m.readBytes a n).length = n := by
  simp [Memory.readBytes]

theorem Memory.readBytes_getD (m : Memory) (a n i : Nat) (h : i < n) : (m.readBytes a n).getD i 0#8 = m.read (a + i) := by
  simp [Memory.readBytes, List.getD, List.getElem?_range h]

/-- Two memories that agree on a range have the same bytes there. -/
theorem Memory.readBytes_congr {m m' : Memory} {a n : Nat} (h : ∀ i < n, m.read (a + i) = m'.read (a + i)) :
    m.readBytes a n = m'.readBytes a n :=
  List.map_congr_left fun i hi => h i (List.mem_range.mp hi)

theorem Memory.read_eq_zero {m : Memory} {a : Nat} (h : ∀ c ∈ m, c.1 ≠ a) : m.read a = 0#8 := by
  induction m with
  | nil => rfl
  | cons c m ih =>
    rw [Memory.read_cons, if_neg (h c (by simp))]
    exact ih fun d hd => h d (by simp [hd])

/-- In canonical form a listed byte reads as listed, and is not 0. -/
theorem Memory.read_of_mem {m : Memory} (h : Memory.wf m) {c : Host.Cell} (hc : c ∈ m) : m.read c.1 = c.2 := by
  induction m with
  | nil => simp at hc
  | cons d m ih =>
    obtain ⟨hd, hm⟩ := List.pairwise_cons.mp h.1
    rcases List.mem_cons.mp hc with rfl | hc
    · simp [Memory.read_cons]
    · have := hd c hc
      rw [Memory.read_cons, if_neg (by omega)]
      exact ih ⟨hm, fun e he => h.2 e (by simp [he])⟩ hc

/-- Canonical memories that read the same at every offset are the same list. -/
theorem Memory.ext_read {m m' : Memory} (h : Memory.wf m) (h' : Memory.wf m') (hr : ∀ a, m.read a = m'.read a) : m = m' := by
  induction m generalizing m' with
  | nil =>
    cases m' with
    | nil => rfl
    | cons d m' =>
      have := Memory.read_of_mem h' (c := d) (by simp)
      exact absurd (by rw [← this, ← hr]; rfl) (h'.2 d (by simp))
  | cons c m ih =>
    obtain ⟨hc, hm⟩ := List.pairwise_cons.mp h.1
    have hcm := Memory.read_of_mem h (c := c) (by simp)
    cases m' with
    | nil => exact absurd (by rw [← hcm, hr]; rfl) (h.2 c (by simp))
    | cons d m' =>
      obtain ⟨hd, hm'⟩ := List.pairwise_cons.mp h'.1
      have hdm := Memory.read_of_mem h' (c := d) (by simp)
      have hlow : ∀ (e : Host.Cell) (k : Memory), (∀ f ∈ k, e.1 < f.1) → ∀ a < e.1, Memory.read (e :: k) a = 0#8 := by
        intro e k hk a ha
        refine Memory.read_eq_zero fun f hf => ?_
        rcases List.mem_cons.mp hf with rfl | hf
        · omega
        · have := hk f hf; omega
      have hcd : c.1 = d.1 := by
        rcases Nat.lt_trichotomy c.1 d.1 with hlt | heq | hlt
        · exact absurd (by rw [← hcm, hr, hlow d m' hd _ hlt]) (h.2 c (by simp))
        · exact heq
        · exact absurd (by rw [← hdm, ← hr, hlow c m hc _ hlt]) (h'.2 d (by simp))
      have hcd2 : c = d := Prod.ext hcd (by rw [← hcm, hr, hcd, hdm])
      subst hcd2
      have htail : ∀ a, Memory.read m a = Memory.read m' a := by
        intro a
        by_cases ha : c.1 = a
        · rw [Memory.read_eq_zero fun f hf => ?_, Memory.read_eq_zero fun f hf => ?_]
          · have := hd f hf; omega
          · have := hc f hf; omega
        · have := hr a
          rwa [Memory.read_cons, Memory.read_cons, if_neg ha, if_neg ha] at this
      rw [ih ⟨hm, fun e he => h.2 e (by simp [he])⟩ ⟨hm', fun e he => h'.2 e (by simp [he])⟩ htail]

/-! ### Whole buffers -/

@[simp] theorem fit_length (n : Nat) (bs : Bytes) : (fit n bs).length = n := by
  simp [fit]; omega

/-- A fitted byte string holds the bytes of the string, then zeros. -/
theorem fit_getD (n : Nat) (bs : Bytes) (i : Nat) (h : i < n) : (fit n bs).getD i 0#8 = bs.getD i 0#8 := by
  simp only [fit, List.getD, List.getElem?_take_of_lt h]
  by_cases hi : i < bs.length
  · rw [List.getElem?_append_left hi]
  · rw [List.getElem?_append_right (by omega), List.getElem?_eq_none (l := bs) (by omega), List.getElem?_replicate]
    split <;> rfl

/-- What a byte reads after a buffer has been filled: the new contents inside the buffer, every other byte as before. -/
theorem State.read_fillBuf (s : State) (b : Buf) (bs : Bytes) (a : Nat) :
    (s.fillBuf b bs).mem.read a
      = if b.base ≤ a ∧ a < b.base + b.cap s.par then bs.getD (a - b.base) 0#8 else s.mem.read a := by
  show (s.mem.writeBytes b.base (fit (b.cap s.par) bs)).read a = _
  rw [Memory.read_writeBytes, fit_length]
  split
  · rw [fit_getD _ _ _ (by omega)]
  · rfl

theorem State.fillBuf_wf {s : State} (h : Memory.wf s.mem) (b : Buf) (bs : Bytes) : Memory.wf (s.fillBuf b bs).mem :=
  Memory.writeBytes_wf h _ _

/-- The memory is canonical right after reset. -/
theorem State.reset_mem_wf (p : Params) : Memory.wf (State.resetWith p).mem := by
  simp [State.resetWith, Memory.wf]

end Sys2Proof.Machine
end

