-- ==== Sys2Proof/Laws/State.lean ====
section
/-!
SUPPORT. One lemma per field of `State` and per named update, true by `rfl`, so that no proof unfolds a record update.
-/

namespace Sys2Proof.Machine

/-! ### The completion of a command (R262) -/

@[simp] theorem State.complete_par (s : State) (e : Byte) : (s.complete e).par = s.par := rfl
@[simp] theorem State.complete_ready (s : State) (e : Byte) : (s.complete e).ready = s.ready := rfl
@[simp] theorem State.complete_busy (s : State) (e : Byte) : (s.complete e).busy = false := rfl
@[simp] theorem State.complete_matched (s : State) (e : Byte) : (s.complete e).matched = s.matched := rfl
@[simp] theorem State.complete_err (s : State) (e : Byte) : (s.complete e).err = e := rfl
@[simp] theorem State.complete_intstat (s : State) (e : Byte) : (s.complete e).intstat = s.intstat ||| completionEvents e := rfl
@[simp] theorem State.complete_inten (s : State) (e : Byte) : (s.complete e).inten = s.inten := rfl
@[simp] theorem State.complete_alg (s : State) (e : Byte) : (s.complete e).alg = s.alg := rfl
@[simp] theorem State.complete_typ (s : State) (e : Byte) : (s.complete e).typ = s.typ := rfl
@[simp] theorem State.complete_digits (s : State) (e : Byte) : (s.complete e).digits = s.digits := rfl
@[simp] theorem State.complete_maxwin (s : State) (e : Byte) : (s.complete e).maxwin = s.maxwin := rfl
@[simp] theorem State.complete_timeStep (s : State) (e : Byte) : (s.complete e).timeStep = s.timeStep := rfl
@[simp] theorem State.complete_seq (s : State) (e : Byte) : (s.complete e).seq = s.seq := rfl
@[simp] theorem State.complete_opa (s : State) (e : Byte) : (s.complete e).opa = s.opa := rfl
@[simp] theorem State.complete_window (s : State) (e : Byte) : (s.complete e).window = s.window := rfl
@[simp] theorem State.complete_slen (s : State) (e : Byte) : (s.complete e).slen = s.slen := rfl
@[simp] theorem State.complete_tlen (s : State) (e : Byte) : (s.complete e).tlen = s.tlen := rfl
@[simp] theorem State.complete_clen (s : State) (e : Byte) : (s.complete e).clen = s.clen := rfl
@[simp] theorem State.complete_codelen (s : State) (e : Byte) : (s.complete e).codelen = s.codelen := rfl
@[simp] theorem State.complete_mem (s : State) (e : Byte) : (s.complete e).mem = s.mem := rfl
@[simp] theorem State.complete_pending (s : State) (e : Byte) : (s.complete e).pending = none := rfl
@[simp] theorem State.complete_tsamp (s : State) (e : Byte) : (s.complete e).tsamp = s.tsamp := rfl
@[simp] theorem State.complete_rst (s : State) (e : Byte) : (s.complete e).rst = s.rst := rfl
@[simp] theorem State.complete_agenda (s : State) (e : Byte) : (s.complete e).agenda = s.agenda := rfl
@[simp] theorem State.complete_reply (s : State) (e : Byte) : (s.complete e).reply = s.reply := rfl

/-! ### Filling a buffer -/

@[simp] theorem State.fillBuf_par (s : State) (b : Buf) (bs : Bytes) : (s.fillBuf b bs).par = s.par := rfl
@[simp] theorem State.fillBuf_ready (s : State) (b : Buf) (bs : Bytes) : (s.fillBuf b bs).ready = s.ready := rfl
@[simp] theorem State.fillBuf_busy (s : State) (b : Buf) (bs : Bytes) : (s.fillBuf b bs).busy = s.busy := rfl
@[simp] theorem State.fillBuf_matched (s : State) (b : Buf) (bs : Bytes) : (s.fillBuf b bs).matched = s.matched := rfl
@[simp] theorem State.fillBuf_err (s : State) (b : Buf) (bs : Bytes) : (s.fillBuf b bs).err = s.err := rfl
@[simp] theorem State.fillBuf_intstat (s : State) (b : Buf) (bs : Bytes) : (s.fillBuf b bs).intstat = s.intstat := rfl
@[simp] theorem State.fillBuf_inten (s : State) (b : Buf) (bs : Bytes) : (s.fillBuf b bs).inten = s.inten := rfl
@[simp] theorem State.fillBuf_alg (s : State) (b : Buf) (bs : Bytes) : (s.fillBuf b bs).alg = s.alg := rfl
@[simp] theorem State.fillBuf_typ (s : State) (b : Buf) (bs : Bytes) : (s.fillBuf b bs).typ = s.typ := rfl
@[simp] theorem State.fillBuf_digits (s : State) (b : Buf) (bs : Bytes) : (s.fillBuf b bs).digits = s.digits := rfl
@[simp] theorem State.fillBuf_maxwin (s : State) (b : Buf) (bs : Bytes) : (s.fillBuf b bs).maxwin = s.maxwin := rfl
@[simp] theorem State.fillBuf_timeStep (s : State) (b : Buf) (bs : Bytes) : (s.fillBuf b bs).timeStep = s.timeStep := rfl
@[simp] theorem State.fillBuf_seq (s : State) (b : Buf) (bs : Bytes) : (s.fillBuf b bs).seq = s.seq := rfl
@[simp] theorem State.fillBuf_opa (s : State) (b : Buf) (bs : Bytes) : (s.fillBuf b bs).opa = s.opa := rfl
@[simp] theorem State.fillBuf_window (s : State) (b : Buf) (bs : Bytes) : (s.fillBuf b bs).window = s.window := rfl
@[simp] theorem State.fillBuf_slen (s : State) (b : Buf) (bs : Bytes) : (s.fillBuf b bs).slen = s.slen := rfl
@[simp] theorem State.fillBuf_tlen (s : State) (b : Buf) (bs : Bytes) : (s.fillBuf b bs).tlen = s.tlen := rfl
@[simp] theorem State.fillBuf_clen (s : State) (b : Buf) (bs : Bytes) : (s.fillBuf b bs).clen = s.clen := rfl
@[simp] theorem State.fillBuf_codelen (s : State) (b : Buf) (bs : Bytes) : (s.fillBuf b bs).codelen = s.codelen := rfl
@[simp] theorem State.fillBuf_mem (s : State) (b : Buf) (bs : Bytes) : (s.fillBuf b bs).mem = s.mem.writeBytes b.base (fit (b.cap s.par) bs) := rfl
@[simp] theorem State.fillBuf_pending (s : State) (b : Buf) (bs : Bytes) : (s.fillBuf b bs).pending = s.pending := rfl
@[simp] theorem State.fillBuf_tsamp (s : State) (b : Buf) (bs : Bytes) : (s.fillBuf b bs).tsamp = s.tsamp := rfl
@[simp] theorem State.fillBuf_rst (s : State) (b : Buf) (bs : Bytes) : (s.fillBuf b bs).rst = s.rst := rfl
@[simp] theorem State.fillBuf_agenda (s : State) (b : Buf) (bs : Bytes) : (s.fillBuf b bs).agenda = s.agenda := rfl
@[simp] theorem State.fillBuf_reply (s : State) (b : Buf) (bs : Bytes) : (s.fillBuf b bs).reply = s.reply := rfl

/-! ### The writes of `INIT` (R191) -/

@[simp] theorem State.construct_par (s : State) (t : EngineType) (d : BitVec 4) : (s.construct t d).par = s.par := rfl
@[simp] theorem State.construct_ready (s : State) (t : EngineType) (d : BitVec 4) : (s.construct t d).ready = true := rfl
@[simp] theorem State.construct_busy (s : State) (t : EngineType) (d : BitVec 4) : (s.construct t d).busy = s.busy := rfl
@[simp] theorem State.construct_matched (s : State) (t : EngineType) (d : BitVec 4) : (s.construct t d).matched = false := rfl
@[simp] theorem State.construct_err (s : State) (t : EngineType) (d : BitVec 4) : (s.construct t d).err = s.err := rfl
@[simp] theorem State.construct_intstat (s : State) (t : EngineType) (d : BitVec 4) : (s.construct t d).intstat = s.intstat := rfl
@[simp] theorem State.construct_inten (s : State) (t : EngineType) (d : BitVec 4) : (s.construct t d).inten = s.inten := rfl
@[simp] theorem State.construct_alg (s : State) (t : EngineType) (d : BitVec 4) : (s.construct t d).alg = .sha1 := rfl
@[simp] theorem State.construct_typ (s : State) (t : EngineType) (d : BitVec 4) : (s.construct t d).typ = t := rfl
@[simp] theorem State.construct_digits (s : State) (t : EngineType) (d : BitVec 4) : (s.construct t d).digits = d := rfl
@[simp] theorem State.construct_maxwin (s : State) (t : EngineType) (d : BitVec 4) : (s.construct t d).maxwin = initialMaxwin t := rfl
@[simp] theorem State.construct_timeStep (s : State) (t : EngineType) (d : BitVec 4) : (s.construct t d).timeStep = 30 := rfl
@[simp] theorem State.construct_seq (s : State) (t : EngineType) (d : BitVec 4) : (s.construct t d).seq = 0 := rfl
@[simp] theorem State.construct_opa (s : State) (t : EngineType) (d : BitVec 4) : (s.construct t d).opa = s.opa := rfl
@[simp] theorem State.construct_window (s : State) (t : EngineType) (d : BitVec 4) : (s.construct t d).window = s.window := rfl
@[simp] theorem State.construct_slen (s : State) (t : EngineType) (d : BitVec 4) : (s.construct t d).slen = s.slen := rfl
@[simp] theorem State.construct_tlen (s : State) (t : EngineType) (d : BitVec 4) : (s.construct t d).tlen = s.tlen := rfl
@[simp] theorem State.construct_clen (s : State) (t : EngineType) (d : BitVec 4) : (s.construct t d).clen = s.clen := rfl
@[simp] theorem State.construct_codelen (s : State) (t : EngineType) (d : BitVec 4) : (s.construct t d).codelen = 0 := rfl
@[simp] theorem State.construct_mem (s : State) (t : EngineType) (d : BitVec 4) : (s.construct t d).mem = (s.fillBuf .code []).mem := rfl
@[simp] theorem State.construct_pending (s : State) (t : EngineType) (d : BitVec 4) : (s.construct t d).pending = s.pending := rfl
@[simp] theorem State.construct_tsamp (s : State) (t : EngineType) (d : BitVec 4) : (s.construct t d).tsamp = s.tsamp := rfl
@[simp] theorem State.construct_rst (s : State) (t : EngineType) (d : BitVec 4) : (s.construct t d).rst = s.rst := rfl
@[simp] theorem State.construct_agenda (s : State) (t : EngineType) (d : BitVec 4) : (s.construct t d).agenda = s.agenda := rfl
@[simp] theorem State.construct_reply (s : State) (t : EngineType) (d : BitVec 4) : (s.construct t d).reply = s.reply := rfl

/-! ### The writes of `CLEAR` (R192) -/

@[simp] theorem State.zeroize_par (s : State) : (s.zeroize).par = s.par := rfl
@[simp] theorem State.zeroize_ready (s : State) : (s.zeroize).ready = false := rfl
@[simp] theorem State.zeroize_busy (s : State) : (s.zeroize).busy = s.busy := rfl
@[simp] theorem State.zeroize_matched (s : State) : (s.zeroize).matched = false := rfl
@[simp] theorem State.zeroize_err (s : State) : (s.zeroize).err = s.err := rfl
@[simp] theorem State.zeroize_intstat (s : State) : (s.zeroize).intstat = s.intstat := rfl
@[simp] theorem State.zeroize_inten (s : State) : (s.zeroize).inten = s.inten := rfl
@[simp] theorem State.zeroize_alg (s : State) : (s.zeroize).alg = .sha1 := rfl
@[simp] theorem State.zeroize_typ (s : State) : (s.zeroize).typ = .hotp := rfl
@[simp] theorem State.zeroize_digits (s : State) : (s.zeroize).digits = 6 := rfl
@[simp] theorem State.zeroize_maxwin (s : State) : (s.zeroize).maxwin = 1 := rfl
@[simp] theorem State.zeroize_timeStep (s : State) : (s.zeroize).timeStep = 30 := rfl
@[simp] theorem State.zeroize_seq (s : State) : (s.zeroize).seq = 0 := rfl
@[simp] theorem State.zeroize_opa (s : State) : (s.zeroize).opa = 0 := rfl
@[simp] theorem State.zeroize_window (s : State) : (s.zeroize).window = 1 := rfl
@[simp] theorem State.zeroize_slen (s : State) : (s.zeroize).slen = 0 := rfl
@[simp] theorem State.zeroize_tlen (s : State) : (s.zeroize).tlen = 0 := rfl
@[simp] theorem State.zeroize_clen (s : State) : (s.zeroize).clen = 0 := rfl
@[simp] theorem State.zeroize_codelen (s : State) : (s.zeroize).codelen = 0 := rfl
@[simp] theorem State.zeroize_mem (s : State) : (s.zeroize).mem = [] := rfl
@[simp] theorem State.zeroize_pending (s : State) : (s.zeroize).pending = s.pending := rfl
@[simp] theorem State.zeroize_tsamp (s : State) : (s.zeroize).tsamp = s.tsamp := rfl
@[simp] theorem State.zeroize_rst (s : State) : (s.zeroize).rst = s.rst := rfl
@[simp] theorem State.zeroize_agenda (s : State) : (s.zeroize).agenda = s.agenda := rfl
@[simp] theorem State.zeroize_reply (s : State) : (s.zeroize).reply = s.reply := rfl

/-! ### The writes of `B32ENC` (R123) -/

@[simp] theorem State.putText_par (s : State) (t : Bytes) : (s.putText t).par = s.par := rfl
@[simp] theorem State.putText_ready (s : State) (t : Bytes) : (s.putText t).ready = s.ready := rfl
@[simp] theorem State.putText_busy (s : State) (t : Bytes) : (s.putText t).busy = s.busy := rfl
@[simp] theorem State.putText_matched (s : State) (t : Bytes) : (s.putText t).matched = s.matched := rfl
@[simp] theorem State.putText_err (s : State) (t : Bytes) : (s.putText t).err = s.err := rfl
@[simp] theorem State.putText_intstat (s : State) (t : Bytes) : (s.putText t).intstat = s.intstat := rfl
@[simp] theorem State.putText_inten (s : State) (t : Bytes) : (s.putText t).inten = s.inten := rfl
@[simp] theorem State.putText_alg (s : State) (t : Bytes) : (s.putText t).alg = s.alg := rfl
@[simp] theorem State.putText_typ (s : State) (t : Bytes) : (s.putText t).typ = s.typ := rfl
@[simp] theorem State.putText_digits (s : State) (t : Bytes) : (s.putText t).digits = s.digits := rfl
@[simp] theorem State.putText_maxwin (s : State) (t : Bytes) : (s.putText t).maxwin = s.maxwin := rfl
@[simp] theorem State.putText_timeStep (s : State) (t : Bytes) : (s.putText t).timeStep = s.timeStep := rfl
@[simp] theorem State.putText_seq (s : State) (t : Bytes) : (s.putText t).seq = s.seq := rfl
@[simp] theorem State.putText_opa (s : State) (t : Bytes) : (s.putText t).opa = s.opa := rfl
@[simp] theorem State.putText_window (s : State) (t : Bytes) : (s.putText t).window = s.window := rfl
@[simp] theorem State.putText_slen (s : State) (t : Bytes) : (s.putText t).slen = s.slen := rfl
@[simp] theorem State.putText_tlen (s : State) (t : Bytes) : (s.putText t).tlen = BitVec.ofNat 16 t.length := rfl
@[simp] theorem State.putText_clen (s : State) (t : Bytes) : (s.putText t).clen = s.clen := rfl
@[simp] theorem State.putText_codelen (s : State) (t : Bytes) : (s.putText t).codelen = s.codelen := rfl
@[simp] theorem State.putText_mem (s : State) (t : Bytes) : (s.putText t).mem = (s.fillBuf .text t).mem := rfl
@[simp] theorem State.putText_pending (s : State) (t : Bytes) : (s.putText t).pending = s.pending := rfl
@[simp] theorem State.putText_tsamp (s : State) (t : Bytes) : (s.putText t).tsamp = s.tsamp := rfl
@[simp] theorem State.putText_rst (s : State) (t : Bytes) : (s.putText t).rst = s.rst := rfl
@[simp] theorem State.putText_agenda (s : State) (t : Bytes) : (s.putText t).agenda = s.agenda := rfl
@[simp] theorem State.putText_reply (s : State) (t : Bytes) : (s.putText t).reply = s.reply := rfl

/-! ### The writes of `B32DEC` (R124) -/

@[simp] theorem State.putSecret_par (s : State) (r : Bytes) : (s.putSecret r).par = s.par := rfl
@[simp] theorem State.putSecret_ready (s : State) (r : Bytes) : (s.putSecret r).ready = s.ready := rfl
@[simp] theorem State.putSecret_busy (s : State) (r : Bytes) : (s.putSecret r).busy = s.busy := rfl
@[simp] theorem State.putSecret_matched (s : State) (r : Bytes) : (s.putSecret r).matched = s.matched := rfl
@[simp] theorem State.putSecret_err (s : State) (r : Bytes) : (s.putSecret r).err = s.err := rfl
@[simp] theorem State.putSecret_intstat (s : State) (r : Bytes) : (s.putSecret r).intstat = s.intstat := rfl
@[simp] theorem State.putSecret_inten (s : State) (r : Bytes) : (s.putSecret r).inten = s.inten := rfl
@[simp] theorem State.putSecret_alg (s : State) (r : Bytes) : (s.putSecret r).alg = s.alg := rfl
@[simp] theorem State.putSecret_typ (s : State) (r : Bytes) : (s.putSecret r).typ = s.typ := rfl
@[simp] theorem State.putSecret_digits (s : State) (r : Bytes) : (s.putSecret r).digits = s.digits := rfl
@[simp] theorem State.putSecret_maxwin (s : State) (r : Bytes) : (s.putSecret r).maxwin = s.maxwin := rfl
@[simp] theorem State.putSecret_timeStep (s : State) (r : Bytes) : (s.putSecret r).timeStep = s.timeStep := rfl
@[simp] theorem State.putSecret_seq (s : State) (r : Bytes) : (s.putSecret r).seq = s.seq := rfl
@[simp] theorem State.putSecret_opa (s : State) (r : Bytes) : (s.putSecret r).opa = s.opa := rfl
@[simp] theorem State.putSecret_window (s : State) (r : Bytes) : (s.putSecret r).window = s.window := rfl
@[simp] theorem State.putSecret_slen (s : State) (r : Bytes) : (s.putSecret r).slen = BitVec.ofNat 16 r.length := rfl
@[simp] theorem State.putSecret_tlen (s : State) (r : Bytes) : (s.putSecret r).tlen = s.tlen := rfl
@[simp] theorem State.putSecret_clen (s : State) (r : Bytes) : (s.putSecret r).clen = s.clen := rfl
@[simp] theorem State.putSecret_codelen (s : State) (r : Bytes) : (s.putSecret r).codelen = s.codelen := rfl
@[simp] theorem State.putSecret_mem (s : State) (r : Bytes) : (s.putSecret r).mem = (s.fillBuf .secret r).mem := rfl
@[simp] theorem State.putSecret_pending (s : State) (r : Bytes) : (s.putSecret r).pending = s.pending := rfl
@[simp] theorem State.putSecret_tsamp (s : State) (r : Bytes) : (s.putSecret r).tsamp = s.tsamp := rfl
@[simp] theorem State.putSecret_rst (s : State) (r : Bytes) : (s.putSecret r).rst = s.rst := rfl
@[simp] theorem State.putSecret_agenda (s : State) (r : Bytes) : (s.putSecret r).agenda = s.agenda := rfl
@[simp] theorem State.putSecret_reply (s : State) (r : Bytes) : (s.putSecret r).reply = s.reply := rfl

/-! ### The issue of a command (R71) -/

@[simp] theorem State.issue_par (s : State) (v : Word) (t : DWord) : (s.issue v t).par = s.par := rfl
@[simp] theorem State.issue_ready (s : State) (v : Word) (t : DWord) : (s.issue v t).ready = s.ready := rfl
@[simp] theorem State.issue_busy (s : State) (v : Word) (t : DWord) : (s.issue v t).busy = true := rfl
@[simp] theorem State.issue_matched (s : State) (v : Word) (t : DWord) : (s.issue v t).matched = s.matched := rfl
@[simp] theorem State.issue_err (s : State) (v : Word) (t : DWord) : (s.issue v t).err = s.err := rfl
@[simp] theorem State.issue_intstat (s : State) (v : Word) (t : DWord) : (s.issue v t).intstat = s.intstat := rfl
@[simp] theorem State.issue_inten (s : State) (v : Word) (t : DWord) : (s.issue v t).inten = s.inten := rfl
@[simp] theorem State.issue_alg (s : State) (v : Word) (t : DWord) : (s.issue v t).alg = s.alg := rfl
@[simp] theorem State.issue_typ (s : State) (v : Word) (t : DWord) : (s.issue v t).typ = s.typ := rfl
@[simp] theorem State.issue_digits (s : State) (v : Word) (t : DWord) : (s.issue v t).digits = s.digits := rfl
@[simp] theorem State.issue_maxwin (s : State) (v : Word) (t : DWord) : (s.issue v t).maxwin = s.maxwin := rfl
@[simp] theorem State.issue_timeStep (s : State) (v : Word) (t : DWord) : (s.issue v t).timeStep = s.timeStep := rfl
@[simp] theorem State.issue_seq (s : State) (v : Word) (t : DWord) : (s.issue v t).seq = s.seq := rfl
@[simp] theorem State.issue_opa (s : State) (v : Word) (t : DWord) : (s.issue v t).opa = s.opa := rfl
@[simp] theorem State.issue_window (s : State) (v : Word) (t : DWord) : (s.issue v t).window = s.window := rfl
@[simp] theorem State.issue_slen (s : State) (v : Word) (t : DWord) : (s.issue v t).slen = s.slen := rfl
@[simp] theorem State.issue_tlen (s : State) (v : Word) (t : DWord) : (s.issue v t).tlen = s.tlen := rfl
@[simp] theorem State.issue_clen (s : State) (v : Word) (t : DWord) : (s.issue v t).clen = s.clen := rfl
@[simp] theorem State.issue_codelen (s : State) (v : Word) (t : DWord) : (s.issue v t).codelen = s.codelen := rfl
@[simp] theorem State.issue_mem (s : State) (v : Word) (t : DWord) : (s.issue v t).mem = s.mem := rfl
@[simp] theorem State.issue_pending (s : State) (v : Word) (t : DWord) : (s.issue v t).pending = some v := rfl
@[simp] theorem State.issue_tsamp (s : State) (v : Word) (t : DWord) : (s.issue v t).tsamp = t := rfl
@[simp] theorem State.issue_rst (s : State) (v : Word) (t : DWord) : (s.issue v t).rst = s.rst := rfl
@[simp] theorem State.issue_agenda (s : State) (v : Word) (t : DWord) : (s.issue v t).agenda = s.agenda := rfl
@[simp] theorem State.issue_reply (s : State) (v : Word) (t : DWord) : (s.issue v t).reply = s.reply := rfl

/-! ### The reset state -/

@[simp] theorem State.resetWith_par (p : Params) : (State.resetWith p).par = p := rfl
@[simp] theorem State.resetWith_ready (p : Params) : (State.resetWith p).ready = false := rfl
@[simp] theorem State.resetWith_busy (p : Params) : (State.resetWith p).busy = false := rfl
@[simp] theorem State.resetWith_matched (p : Params) : (State.resetWith p).matched = false := rfl
@[simp] theorem State.resetWith_err (p : Params) : (State.resetWith p).err = 0 := rfl
@[simp] theorem State.resetWith_intstat (p : Params) : (State.resetWith p).intstat = 0 := rfl
@[simp] theorem State.resetWith_inten (p : Params) : (State.resetWith p).inten = 0 := rfl
@[simp] theorem State.resetWith_alg (p : Params) : (State.resetWith p).alg = .sha1 := rfl
@[simp] theorem State.resetWith_typ (p : Params) : (State.resetWith p).typ = .hotp := rfl
@[simp] theorem State.resetWith_digits (p : Params) : (State.resetWith p).digits = 6 := rfl
@[simp] theorem State.resetWith_maxwin (p : Params) : (State.resetWith p).maxwin = 1 := rfl
@[simp] theorem State.resetWith_timeStep (p : Params) : (State.resetWith p).timeStep = 30 := rfl
@[simp] theorem State.resetWith_seq (p : Params) : (State.resetWith p).seq = 0 := rfl
@[simp] theorem State.resetWith_opa (p : Params) : (State.resetWith p).opa = 0 := rfl
@[simp] theorem State.resetWith_window (p : Params) : (State.resetWith p).window = 1 := rfl
@[simp] theorem State.resetWith_slen (p : Params) : (State.resetWith p).slen = 0 := rfl
@[simp] theorem State.resetWith_tlen (p : Params) : (State.resetWith p).tlen = 0 := rfl
@[simp] theorem State.resetWith_clen (p : Params) : (State.resetWith p).clen = 0 := rfl
@[simp] theorem State.resetWith_codelen (p : Params) : (State.resetWith p).codelen = 0 := rfl
@[simp] theorem State.resetWith_mem (p : Params) : (State.resetWith p).mem = [] := rfl
@[simp] theorem State.resetWith_pending (p : Params) : (State.resetWith p).pending = none := rfl
@[simp] theorem State.resetWith_tsamp (p : Params) : (State.resetWith p).tsamp = 0 := rfl
@[simp] theorem State.resetWith_rst (p : Params) : (State.resetWith p).rst = false := rfl
@[simp] theorem State.resetWith_agenda (p : Params) : (State.resetWith p).agenda = [] := rfl
@[simp] theorem State.resetWith_reply (p : Params) : (State.resetWith p).reply = .none := rfl

end Sys2Proof.Machine
end

