-- ==== Sys2Proof/Laws/Ops.lean ====
section
/-!
SUPPORT. One lemma for each shared operation that says once everything it can do: completions and guards, the executions of
commands, the bus accesses, the turns and the step.
-/

namespace Sys2Proof.Machine

/-! ### Completions -/

theorem complete_noError (s : State) : s.complete noError = s.afterSuccess := rfl

theorem complete_code (s : State) (e : ErrKind) : s.complete e.code = s.afterError e.code := by cases e <;> rfl

theorem succeed_eq (s : State) : succeed s = .next s.afterSuccess := rfl

theorem raiseError_eq (e : ErrKind) (s : State) : raiseError e s = .next (s.afterError e.code) := by
  cases e <;> rfl

theorem completeIllegal_eq (s : State) : completeIllegal s = .next (s.afterError 0x10) := rfl

theorem ErrKind.code_ne_zero (e : ErrKind) : e.code ≠ 0 := by cases e <;> decide

/-- The three ways through the first two tests of a command (R190). -/
theorem guarded_cases (i : Instr) (s : State) (k : State → StepResult) :
    (i.wf = false ∧ guarded i s k = .next (s.afterError 0x10))
    ∨ (i.wf = true ∧ permitted i s.ready s.typ = false ∧ guarded i s k = .next (s.afterError 0x11))
    ∨ (i.wf = true ∧ permitted i s.ready s.typ = true ∧ guarded i s k = k s) := by
  unfold guarded
  cases h : i.wf
  · exact .inl ⟨rfl, rfl⟩
  · cases h' : permitted i s.ready s.typ
    · exact .inr (.inl ⟨rfl, rfl, rfl⟩)
    · exact .inr (.inr ⟨rfl, rfl, rfl⟩)

theorem guarded_pass {i : Instr} {s : State} {k : State → StepResult} (h : i.wf = true)
    (h' : permitted i s.ready s.typ = true) : guarded i s k = k s := by
  simp [guarded, h, h']

/-- A `VERIFY`, a `GEN` and a reconfiguration leave the memory alone or fill one buffer; what a completed command writes, by
cases: an error with one of the five codes, or the write-set of its own rule. -/
theorem exec_cases (i : Instr) (s : State) :
    (∃ code ∈ errCodes, code ≠ 0 ∧ exec i s = .next (s.afterError code))
    ∨ ∃ r : State, exec i s = .next r.afterSuccess ∧ i.wf = true ∧ permitted i s.ready s.typ = true ∧
      match i with
      | .init t d => s.slen.toNat ≤ s.par.secretMax ∧ r = s.construct t d
      | .clear => r = s.zeroize
      | .setalg a => r = { s with alg := a }
      | .setstep => 0 < s.opa.toInt ∧ r = { s with timeStep := s.opa }
      | .setmaxw n => r = { s with maxwin := n }
      | .gen d => r = { s with
          mem := (s.fillBuf .code (s.codeAt (s.effectiveCounter d))).mem, codelen := s.digits.setWidth 5, seq := s.nextSeq d }
      | .verify d w => r = { s with matched := s.verifyScan d w, seq := s.nextSeq d }
      | .b32enc p g => s.slen.toNat ≤ s.par.secretMax ∧
          ∃ form, textForm p g = some form ∧ r = s.putText (b32Encode form s.secretBytes)
      | .b32dec => s.tlen.toNat ≤ s.par.textMax ∧
          ∃ b, b32Decode s.textInput = some b ∧ b.length ≤ s.par.secretMax ∧ r = s.putSecret b := by
  cases i <;> simp only [exec, execInit, execClear, execSetalg, execSetstep, execSetmaxw, execGen, execVerify, execB32enc, execB32dec]
  case init t d =>
    rcases guarded_cases (.init t d) s _ with ⟨-, h⟩ | ⟨-, -, h⟩ | ⟨h1, h2, h⟩
    · exact .inl ⟨0x10, by decide, by decide, h⟩
    · exact .inl ⟨0x11, by decide, by decide, h⟩
    · rw [h]
      split
      · exact .inl ⟨0x12, by decide, by decide, rfl⟩
      · exact .inr ⟨_, rfl, h1, h2, by omega, rfl⟩
  case clear => exact .inr ⟨_, rfl, rfl, rfl, rfl⟩
  case setalg a =>
    rcases guarded_cases (.setalg a) s _ with ⟨-, h⟩ | ⟨-, -, h⟩ | ⟨h1, h2, h⟩
    · exact .inl ⟨0x10, by decide, by decide, h⟩
    · exact .inl ⟨0x11, by decide, by decide, h⟩
    · exact .inr ⟨_, h, h1, h2, rfl⟩
  case setstep =>
    rcases guarded_cases .setstep s _ with ⟨-, h⟩ | ⟨-, -, h⟩ | ⟨h1, h2, h⟩
    · exact .inl ⟨0x10, by decide, by decide, h⟩
    · exact .inl ⟨0x11, by decide, by decide, h⟩
    · rw [h]
      split
      · exact .inl ⟨0x03, by decide, by decide, rfl⟩
      · exact .inr ⟨_, rfl, h1, h2, by omega, rfl⟩
  case setmaxw n =>
    rcases guarded_cases (.setmaxw n) s _ with ⟨-, h⟩ | ⟨-, -, h⟩ | ⟨h1, h2, h⟩
    · exact .inl ⟨0x10, by decide, by decide, h⟩
    · exact .inl ⟨0x11, by decide, by decide, h⟩
    · exact .inr ⟨_, h, h1, h2, rfl⟩
  case gen d =>
    rcases guarded_cases (.gen d) s _ with ⟨-, h⟩ | ⟨-, -, h⟩ | ⟨h1, h2, h⟩
    · exact .inl ⟨0x10, by decide, by decide, h⟩
    · exact .inl ⟨0x11, by decide, by decide, h⟩
    · exact .inr ⟨_, h, h1, h2, rfl⟩
  case verify d w =>
    rcases guarded_cases (.verify d w) s _ with ⟨-, h⟩ | ⟨-, -, h⟩ | ⟨h1, h2, h⟩
    · exact .inl ⟨0x10, by decide, by decide, h⟩
    · exact .inl ⟨0x11, by decide, by decide, h⟩
    · exact .inr ⟨_, h, h1, h2, rfl⟩
  case b32enc p g =>
    rcases guarded_cases (.b32enc p g) s _ with ⟨-, h⟩ | ⟨-, -, h⟩ | ⟨h1, h2, h⟩
    · exact .inl ⟨0x10, by decide, by decide, h⟩
    · exact .inl ⟨0x11, by decide, by decide, h⟩
    · rw [h]
      split
      · exact .inl ⟨0x12, by decide, by decide, rfl⟩
      · cases hf : textForm p g with
        | none => exact .inl ⟨0x10, by decide, by decide, rfl⟩
        | some form => exact .inr ⟨_, rfl, h1, h2, by omega, form, rfl, rfl⟩
  case b32dec =>
    rcases guarded_cases .b32dec s _ with ⟨-, h⟩ | ⟨-, -, h⟩ | ⟨h1, h2, h⟩
    · exact .inl ⟨0x10, by decide, by decide, h⟩
    · exact .inl ⟨0x11, by decide, by decide, h⟩
    · rw [h]
      split
      · exact .inl ⟨0x12, by decide, by decide, rfl⟩
      · cases hb : b32Decode s.textInput with
        | none => exact .inl ⟨0x01, by decide, by decide, rfl⟩
        | some b =>
          simp only
          split
          · exact .inl ⟨0x12, by decide, by decide, rfl⟩
          · exact .inr ⟨_, rfl, h1, h2, by omega, b, rfl, by omega, rfl⟩

/-- The fields that no command writes but through its completion: every success of `exec_cases` keeps them. -/
structure KeepsFixedFields (s r : State) : Prop where
  par : r.par = s.par
  inten : r.inten = s.inten
  intstat : r.intstat = s.intstat
  tsamp : r.tsamp = s.tsamp
  rst : r.rst = s.rst
  agenda : r.agenda = s.agenda
  reply : r.reply = s.reply

/-- Every command completes: with an error over the state it began in, or with success over a state that keeps the fixed fields. -/
theorem exec_completes (i : Instr) (s : State) :
    (∃ code ∈ errCodes, code ≠ 0 ∧ exec i s = .next (s.afterError code))
    ∨ ∃ r : State, exec i s = .next r.afterSuccess ∧ KeepsFixedFields s r := by
  rcases exec_cases i s with h | ⟨r, h, -, -, hr⟩
  · exact .inl h
  · refine .inr ⟨r, h, ?_⟩
    cases i
    case init => obtain ⟨-, rfl⟩ := hr; exact ⟨rfl, rfl, rfl, rfl, rfl, rfl, rfl⟩
    case clear => obtain rfl := hr; exact ⟨rfl, rfl, rfl, rfl, rfl, rfl, rfl⟩
    case setalg => obtain rfl := hr; exact ⟨rfl, rfl, rfl, rfl, rfl, rfl, rfl⟩
    case setstep => obtain ⟨-, rfl⟩ := hr; exact ⟨rfl, rfl, rfl, rfl, rfl, rfl, rfl⟩
    case setmaxw => obtain rfl := hr; exact ⟨rfl, rfl, rfl, rfl, rfl, rfl, rfl⟩
    case gen => obtain rfl := hr; exact ⟨rfl, rfl, rfl, rfl, rfl, rfl, rfl⟩
    case verify => obtain rfl := hr; exact ⟨rfl, rfl, rfl, rfl, rfl, rfl, rfl⟩
    case b32enc => obtain ⟨-, -, -, rfl⟩ := hr; exact ⟨rfl, rfl, rfl, rfl, rfl, rfl, rfl⟩
    case b32dec => obtain ⟨-, -, -, -, rfl⟩ := hr; exact ⟨rfl, rfl, rfl, rfl, rfl, rfl, rfl⟩

/-! ### The engine's turn and the step -/

/-- Everything the engine's turn can do. -/
theorem engineTurn_cases (s : State) :
    (s.busy = false ∧ engineTurn s = .next s)
    ∨ (s.busy = true ∧ s.pending = none ∧ engineTurn s = .fault .noPendingWord)
    ∨ (∃ w e, s.busy = true ∧ s.pending = some w ∧ decode w = .error e ∧ engineTurn s = .next (s.afterError 0x10))
    ∨ ∃ w i, s.busy = true ∧ s.pending = some w ∧ decode w = .ok i ∧ engineTurn s = exec i s := by
  unfold engineTurn State.commandWord
  cases hb : s.busy
  · exact .inl ⟨rfl, rfl⟩
  · cases hp : s.pending with
    | none => exact .inr (.inl ⟨rfl, rfl, rfl⟩)
    | some w =>
      cases hd : decode w with
      | error e => exact .inr (.inr (.inl ⟨w, e, rfl, rfl, hd, by simp [complete, hd, completeIllegal_eq]⟩))
      | ok i => exact .inr (.inr (.inr ⟨w, i, rfl, rfl, hd, by simp [complete, hd]⟩))

theorem step_nil {s : State} (h : s.agenda = []) : step s = engineTurn s := by simp [step, h]

theorem step_cons {s : State} {t : Turn} {rest : List Turn} (h : s.agenda = t :: rest) :
    step s = takeTurn t { s with agenda := rest } := by simp [step, h]

/-! ### Bus accesses -/

/-- A read changes nothing but the model's record of its outcome (R62). -/
theorem hostRead_eq (s : State) (a : Offset) (n : Nat) : ∃ r, hostRead s a n = { s with reply := r } := by
  unfold hostRead
  split <;> exact ⟨_, rfl⟩

/-- Everything an accepted write can do (R63): an accepted command, a register, or bytes of one buffer. -/
theorem memWrite_cases {s s' : State} {a : Offset} {n : Nat} {v : Word} {t : DWord} (h : memWrite s a n v t = some s') :
    refused s true a n = false ∧
    ((∃ r, locate s.par a.toNat = .reg r ∧ regWrite s v t r = some s')
      ∨ ∃ b, locate s.par a.toNat = .buf b ∧ s' = { s with mem := s.mem.writeBytes a.toNat (lanes v n) }) := by
  unfold memWrite at h
  split at h
  · cases h
  · rename_i hr
    refine ⟨by simpa using hr, ?_⟩
    split at h
    · rename_i r hl
      exact .inl ⟨r, hl, h⟩
    · rename_i b hl
      exact .inr ⟨b, hl, (Option.some.inj h).symm⟩
    · cases h

/-- What a refusal is, and is not, in one equation (R68, R282). -/
theorem refused_eq_false (s : State) (w : Bool) (a : Offset) (n : Nat) :
    refused s w a n = false ↔
      (n = 1 ∨ n = 2 ∨ n = 4) ∧ a.toNat % n = 0 ∧ locate s.par a.toNat ≠ .unmapped ∧ (a.toNat < 0x060 → n = 4)
      ∧ (w = true → readOnly (locate s.par a.toNat) = false)
      ∧ (w = true → s.ready = true → secretLocked (locate s.par a.toNat) = false)
      ∧ (s.busy = true → busyAllowed w (locate s.par a.toNat) = true) ∧ s.rst = false := by
  simp only [refused, Bool.or_eq_false_iff, Bool.and_eq_false_iff, decide_eq_false_iff_not, Bool.not_eq_eq_eq_not, Bool.not_false]
  cases w <;> cases s.ready <;> cases s.busy <;> simp <;> tauto

theorem bufAt_some {p : Params} {a : Nat} {b : Buf} (h : bufAt p a = some b) : b.base ≤ a ∧ a < b.base + b.cap p := by
  have := List.find?_some h
  simpa [Buf.contains] using this

/-- The register found at an offset is the one at its word. -/
theorem locate_reg {p : Params} {a : Nat} {r : Reg} (h : locate p a = .reg r) : regAt (a / 4 * 4) = some r := by
  unfold locate at h
  split at h
  · rename_i r' hr; cases h; exact hr
  · split at h <;> cases h

theorem locate_buf {p : Params} {a : Nat} {b : Buf} (h : locate p a = .buf b) : b.base ≤ a ∧ a < b.base + b.cap p := by
  unfold locate at h
  split at h
  · cases h
  · split at h
    · rename_i b' hb; cases h; exact bufAt_some hb
    · cases h

end Sys2Proof.Machine
end

