-- ==== Sys2Proof/Laws/PerInstr.lean ====
section
/-!
SUPPORT. Families of statements over all commands, one lemma per constructor: the four fields of an encoded command (R90).
-/

namespace Sys2Proof

/-- The fields of an assembled word are the bytes it was assembled from (R90). -/
theorem fields_assemble (op flags imm : Byte) : opField (assemble op flags imm) = op ∧ flagsField (assemble op flags imm) = flags
    ∧ immField (assemble op flags imm) = imm ∧ zeroField (assemble op flags imm) = 0#8 := by
  simp only [opField, flagsField, immField, zeroField, assemble]
  refine ⟨?_, ?_, ?_, ?_⟩ <;> (ext i hi; grind)

end Sys2Proof

namespace Sys2Proof.Laws.EncodeFields

/-- The fields of the word of a command are its opcode, its `FLAGS` byte, its `IMM` byte and `0x00`. -/
def Statement (i : Instr) : Prop :=
  opField (encode i) = i.opcode ∧ flagsField (encode i) = i.flags ∧ immField (encode i) = i.imm ∧ zeroField (encode i) = 0#8

theorem init (t : EngineType) (d : BitVec 4) : Statement (.init t d) := fields_assemble _ _ _
theorem clear : Statement .clear := fields_assemble _ _ _
theorem setalg (a : Alg) : Statement (.setalg a) := fields_assemble _ _ _
theorem setstep : Statement .setstep := fields_assemble _ _ _
theorem setmaxw (n : BitVec 8) : Statement (.setmaxw n) := fields_assemble _ _ _
theorem gen (d : Bool) : Statement (.gen d) := fields_assemble _ _ _
theorem verify (d w : Bool) : Statement (.verify d w) := fields_assemble _ _ _
theorem b32enc (p g : Bool) : Statement (.b32enc p g) := fields_assemble _ _ _
theorem b32dec : Statement .b32dec := fields_assemble _ _ _

end Sys2Proof.Laws.EncodeFields
end

