-- ==== Sys2Proof/Tests/Slice0.lean ====
section
/-!
SUPPORT. Tests of the model against values that the spec writes out, and one witness for each obligation that has hypotheses.
Every expected value comes from 95_test_vectors.md, from an example inside a rule, or from a word assembled by hand from R95; the
comment of a test names its source.
-/

namespace Sys2Proof.Tests

open Sys2Proof Sys2Proof.Machine

set_option Elab.async false

/-! ### Helpers -/

/-- The secret of the spec's examples: the text `12345678901234567890`. -/
def rfcSecret : Bytes := (List.range 20).map fun i => BitVec.ofNat 8 (0x30 + (i + 1) % 10)

/-- The ASCII digits of a list of digits. -/
def ascii (ds : List Nat) : Bytes := ds.map fun d => BitVec.ofNat 8 (0x30 + d)

/-- An engine in phase EMPTY that holds the secret. -/
def loaded : State := { State.reset with slen := 20, mem := Memory.writeBytes [] 0x1000 rfcSecret }

/-- The state after `INIT hotp, 6` on the secret. -/
def hotp : State := { loaded with ready := true }

/-- The state after `INIT totp, 8` on the secret. -/
def totp : State := { hotp with typ := .totp, digits := 8, maxwin := 3 }

/-- A state with a candidate loaded. -/
def withCand (s : State) (c : Bytes) : State := { s with clen := BitVec.ofNat 8 c.length, mem := s.mem.writeBytes 0x060 c }

/-- A state with a text loaded. -/
def withText (s : State) (c : Bytes) : State := { s with tlen := BitVec.ofNat 16 c.length, mem := s.mem.writeBytes 0x2000 c }

/-- The next state of an outcome. -/
def nextOf (r : StepResult) : Option State :=
  match r with
  | .next t => some t
  | .fault _ => none
  | .refused _ => none

/-- The register word at an offset after an outcome. -/
def wordAfter (r : StepResult) (a : Offset) : Option Word := (nextOf r).bind fun t => memRead t a 4

/-- `n` bytes at an offset after an outcome. -/
def bytesAfter (r : StepResult) (a n : Nat) : Option Bytes := (nextOf r).map fun t => t.mem.readBytes a n

/-! ### Well-formedness: each check refuses an ill-formed term (R95) -/

theorem test_wf_refuses_zero_digits : (Instr.init .hotp 0).wf = false := by decide
theorem test_wf_refuses_eleven_digits : (Instr.init .totp 11).wf = false := by decide
theorem test_wf_refuses_zero_window : (Instr.setmaxw 0).wf = false := by decide
theorem test_wf_refuses_pad_with_group : (Instr.b32enc true true).wf = false := by decide

/-! ### Decoding: words assembled by hand, `ZERO IMM FLAGS OP`, from R92 and R95 -/

theorem test_decode_init : decode 0b00000000000010000000000100000001 = .ok (.init .totp 8) := rfl
theorem test_decode_init_hotp : decode 0b00000000000010100000000000000001 = .ok (.init .hotp 10) := rfl
theorem test_decode_clear : decode 0b00000000000000000000000000000010 = .ok .clear := rfl
theorem test_decode_setalg : decode 0b00000000000000100000000000000011 = .ok (.setalg .sha512) := rfl
theorem test_decode_setstep : decode 0b00000000000000000000000000000100 = .ok .setstep := rfl
theorem test_decode_setmaxw : decode 0b00000000100000010000000000000101 = .ok (.setmaxw 129) := rfl
theorem test_decode_gen : decode 0b00000000000000000000000100010000 = .ok (.gen true) := rfl
theorem test_decode_verify : decode 0b00000000000000000000001000010001 = .ok (.verify false true) := rfl
theorem test_decode_b32enc : decode 0b00000000000000000000000100100000 = .ok (.b32enc true false) := rfl
theorem test_decode_b32dec : decode 0b00000000000000000000000000100001 = .ok .b32dec := rfl

/-- The illegal words of 95_test_vectors.md section 6, of its Base32 table, and of R96. -/
theorem test_illegal_words : ∀ w ∈ [0x00000000, 0x00000006, 0x000000FF, 0x01060001, 0x00000001, 0x000B0001, 0x00160001,
    0x00060201, 0x00000101, 0x00030003, 0x00040003, 0x00000005, 0x00000210, 0x00000411, 0x00010010, 0x00000102, 0x00010004,
    0x00000320, 0xFFFFFFFF], decodeTableWord 32 w = none := by decide

/-! ### The pure functions -/

/-- R148: the check values of SHA-1, of the empty message and of `abc`. -/
theorem test_sha1 : beInt (sha1 []) = 0xda39a3ee5e6b4b0d3255bfef95601890afd80709
    ∧ beInt (sha1 [0x61, 0x62, 0x63]) = 0xa9993e364706816aba3e25717850c26c9cd0d89d := by decide +kernel

/-- R154: the check values of SHA-256. -/
theorem test_sha256 : beInt (sha256 []) = 0xe3b0c44298fc1c149afbf4c8996fb92427ae41e4649b934ca495991b7852b855
    ∧ beInt (sha256 [0x61, 0x62, 0x63]) = 0xba7816bf8f01cfea414140de5dae2223b00361a396177a9cb410ff61f20015ad := by
  decide +kernel

/-- R160: the check value of SHA-512 for `abc`. -/
theorem test_sha512 : beInt (sha512 [0x61, 0x62, 0x63]) =
    0xddaf35a193617abacc417349ae20413112e6fa4e89a97ea20a9eeee64b55d39a2192992a274fc1a836ba3c23a3feebbd454d4423643ce80e2a9ac94fa54ca49f := by
  decide +kernel

/-- 42_hmac_truncation.md section 4: the digest, the offset and the truncated value for counter 1. -/
theorem test_hmac_sha1 :
    beInt (hmac .sha1 rfcSecret (counterMsg 1)) = 0x75a48a19d4cbe100644e8ac1397eea747a2d33ab
    ∧ truncOffset (hmac .sha1 rfcSecret (counterMsg 1)) = 11
    ∧ dynTrunc (hmac .sha1 rfcSecret (counterMsg 1)) = 1094287082 := by decide +kernel

/-- 95_test_vectors.md section 4.1: a key of 65 bytes, hashed first under SHA-256. -/
theorem test_hmac_long_key : beInt (hmac .sha256 (List.replicate 65 0xAA) (counterMsg 1)) =
    0xae2643f1f1ba9764bdde63e7cdf6cb169090c4d5de58625c2b673d15ccc53a0f := by decide +kernel

/-- D00's SHA-512 vector with the 64-byte secret (95_test_vectors.md section 1): timestamp 59, code `90693936`. -/
theorem test_code_sha512 : codeStr ((rfcSecret ++ rfcSecret ++ rfcSecret ++ rfcSecret).take 64) .sha512 8 1
    = ascii [9, 0, 6, 9, 3, 9, 3, 6] := by decide +kernel

/-- 95_test_vectors.md section 4.2: reductions and renderings, with leading zeros and `10^10` above `2^31`. -/
theorem test_render : renderDigits (codeValue 1000000 6) 6 = ascii [0, 0, 0, 0, 0, 0]
    ∧ renderDigits (codeValue 5 3) 3 = ascii [0, 0, 5]
    ∧ renderDigits (codeValue 2147483647 10) 10 = ascii [2, 1, 4, 7, 4, 8, 3, 6, 4, 7] := by decide

/-- 95_test_vectors.md section 2: the bytes of `foo` in the three forms, `MZXW6`, `MZXW6===` and `MZXW 6`. -/
theorem test_base32_encode :
    b32Encode .plain [0x66, 0x6F, 0x6F] = [0x4D, 0x5A, 0x58, 0x57, 0x36]
    ∧ b32Encode .padded [0x66, 0x6F, 0x6F] = [0x4D, 0x5A, 0x58, 0x57, 0x36, 0x3D, 0x3D, 0x3D]
    ∧ b32Encode .grouped [0x66, 0x6F, 0x6F] = [0x4D, 0x5A, 0x58, 0x57, 0x20, 0x36]
    ∧ b32Encode .plain [0xFF] = [0x37, 0x34] := by decide

/-- 95_test_vectors.md section 2: `MZ`, `M`, `0123`, `MY ====`, `MY= `, `MZXW8`, `M<TAB>Y`, and only padding. -/
theorem test_base32_decode :
    b32Decode [0x4D, 0x5A] = some [0x66] ∧ b32Decode [0x4D] = some []
    ∧ b32Decode [0x30, 0x31, 0x32, 0x33] = some [0x72, 0x35]
    ∧ b32Decode [0x4D, 0x59, 0x20, 0x3D, 0x3D, 0x3D, 0x3D] = some [0x66]
    ∧ b32Decode [0x4D, 0x59, 0x3D, 0x20] = none ∧ b32Decode [0x4D, 0x5A, 0x58, 0x57, 0x38] = none
    ∧ b32Decode [0x4D, 0x09, 0x59] = none ∧ b32Decode [0x3D, 0x3D, 0x3D, 0x3D] = some [] := by decide

/-- 95_test_vectors.md section 5.1: windows and the counters they scan. -/
theorem test_windows : clampWindow (-2147483648) 3 = 1 ∧ clampWindow 2147483647 3 = 3 ∧ clampWindow 4 5 = 4
    ∧ scanCounters 100 2 = [100, 101] ∧ scanCounters 100 4 = [99, 100, 101, 102]
    ∧ scanCounters 0 3 = [0xFFFFFFFFFFFFFFFF, 0, 1] ∧ scanCounters 0xFFFFFFFFFFFFFFFF 2 = [0xFFFFFFFFFFFFFFFF, 0] := by
  decide

/-! ### The commands -/

/-- R191, example: phase EMPTY, `SLEN = 20`, `INIT totp, 8` leaves `CFG = 0x00030810`, `STEP = 30`, `STATUS = 2`. -/
theorem test_init : let r := exec (.init .totp 8) loaded
    wordAfter r 0x018 = some 0x00030810 ∧ wordAfter r 0x030 = some 30 ∧ wordAfter r 0x00C = some 0x00000002
    ∧ wordAfter r 0x010 = some 1 := by decide +kernel

/-- 95_test_vectors.md section 6: `INIT` with `SLEN = 257` and `INIT` in phase READY. -/
theorem test_init_errors : wordAfter (exec (.init .hotp 6) { State.reset with slen := 257 }) 0x00C = some 0x00001200
    ∧ wordAfter (exec (.init .totp 8) hotp) 0x00C = some 0x00001102 := by decide +kernel

/-- R192, example, and the frame of the interrupt registers (95_test_vectors.md section 7). -/
theorem test_clear : let r := exec .clear { totp with inten := 2, intstat := 2, err := 0x11 }
    wordAfter r 0x018 = some 0x00010600 ∧ wordAfter r 0x00C = some 0 ∧ wordAfter r 0x010 = some 3 ∧ wordAfter r 0x014 = some 2
    ∧ (nextOf r).map (·.mem) = some [] := by decide +kernel

/-- R193, example: `SETALG sha256` on `CFG = 0x00030810`. -/
theorem test_setalg : wordAfter (exec (.setalg .sha256) totp) 0x018 = some 0x00030811 := by decide +kernel

/-- R194, example: `SETMAXW 1` on `CFG = 0x00030810`; and 255 in type hotp (95_test_vectors.md section 6). -/
theorem test_setmaxw : wordAfter (exec (.setmaxw 1) totp) 0x018 = some 0x00010810
    ∧ wordAfter (exec (.setmaxw 255) { hotp with alg := .sha512 }) 0x018 = some 0x00FF0602 := by decide +kernel

/-- 95_test_vectors.md section 6: the largest step is taken, its halves as the host reads them. -/
theorem test_setstep : let r := exec .setstep { totp with opa := 0x7FFFFFFFFFFFFFFF }
    wordAfter r 0x00C = some 2 ∧ wordAfter r 0x030 = some 0xFFFFFFFF ∧ wordAfter r 0x034 = some 0x7FFFFFFF := by decide +kernel

/-- 95_test_vectors.md section 6: the steps 0, -1 and `-2^63` are rejected, and type hotp is not permitted (R258). -/
theorem test_setstep_errors :
    wordAfter (exec .setstep { totp with opa := 0 }) 0x00C = some 0x00000302
    ∧ wordAfter (exec .setstep { totp with opa := 0xFFFFFFFFFFFFFFFF }) 0x00C = some 0x00000302
    ∧ wordAfter (exec .setstep { totp with opa := 0x8000000000000000 }) 0x00C = some 0x00000302
    ∧ wordAfter (exec .setstep hotp) 0x00C = some 0x00001102 := by decide +kernel

/-- R197, example: `OPA = 1` gives `287082`, `CODELEN = 6`, zero bytes after the code. -/
theorem test_gen : let r := exec (.gen false) { hotp with opa := 1 }
    bytesAfter r 0x070 16 = some (ascii [2, 8, 7, 0, 8, 2] ++ List.replicate 10 0) ∧ wordAfter r 0x04C = some 6
    ∧ wordAfter r 0x038 = some 0 := by decide +kernel

/-- 95_test_vectors.md section 5.2, step 7: `GEN.D` at the last counter gives `094451` and wraps `SEQ`. -/
theorem test_gen_default : let r := exec (.gen true) { hotp with seq := 0xFFFFFFFFFFFFFFFF, opa := 5 }
    bytesAfter r 0x070 6 = some (ascii [0, 9, 4, 4, 5, 1]) ∧ wordAfter r 0x038 = some 0 ∧ wordAfter r 0x03C = some 0 := by
  decide +kernel

/-- 95_test_vectors.md section 5.3: `94287082` at timestamp 0 with `.W` scans counters 0 and 1. -/
theorem test_verify_match : wordAfter (exec (.verify false true) (withCand totp (ascii [9, 4, 2, 8, 7, 0, 8, 2]))) 0x00C
    = some 0x00000006 := by decide +kernel

/-- 95_test_vectors.md section 5.3: the same candidate at timestamp 60 scans counters 2 and 3, and clears an old `MATCH`. -/
theorem test_verify_no_match :
    wordAfter (exec (.verify false true)
      { withCand totp (ascii [9, 4, 2, 8, 7, 0, 8, 2]) with opa := 60, matched := true }) 0x00C = some 0x00000002 := by
  decide +kernel

/-- An engine in phase EMPTY that holds the secret `foob`. -/
def foobLoaded : State := { State.reset with slen := 4, mem := Memory.writeBytes [] 0x1000 [0x66, 0x6F, 0x6F, 0x62] }

/-- R123, example in small: `foob` in the padded form `MZXW6YQ=`, over an older and longer text. -/
theorem test_b32enc : let r := exec (.b32enc true false) (withText foobLoaded (List.replicate 9 0x41))
    bytesAfter r 0x2000 9 = some [0x4D, 0x5A, 0x58, 0x57, 0x36, 0x59, 0x51, 0x3D, 0x00] ∧ wordAfter r 0x044 = some 8 := by
  decide +kernel

/-- R124, example in small: `mzxw6===` is `foo`, over an older and longer secret. -/
theorem test_b32dec : let r := exec .b32dec (withText loaded [0x6D, 0x7A, 0x78, 0x77, 0x36, 0x3D, 0x3D, 0x3D])
    bytesAfter r 0x1000 5 = some [0x66, 0x6F, 0x6F, 0x00, 0x00] ∧ wordAfter r 0x040 = some 3 ∧ wordAfter r 0x00C = some 0 := by
  decide +kernel

/-- 95_test_vectors.md section 2: `MY8` ends with `InvalidBase32Secret` and leaves the secret; phase READY is not permitted. -/
theorem test_b32dec_errors : wordAfter (exec .b32dec (withText loaded [0x4D, 0x59, 0x38])) 0x00C = some 0x00000100
    ∧ bytesAfter (exec .b32dec (withText loaded [0x4D, 0x59, 0x38])) 0x1000 2 = some [0x31, 0x32]
    ∧ wordAfter (exec .b32dec (withText hotp [0x4D, 0x59, 0x38])) 0x00C = some 0x00001102 := by decide +kernel

/-! ### The bus (95_test_vectors.md section 7) -/

theorem test_bus_reads : memRead State.reset 0x000 4 = some 0x4F545045 ∧ memRead State.reset 0x004 4 = some 0x02080100
    ∧ memRead State.reset 0x008 4 = some 0 ∧ memRead State.reset 0x018 4 = some 0x00010600 ∧ memRead State.reset 0x00C 2 = none
    ∧ memRead State.reset 0x01C 4 = none ∧ memRead State.reset 0x080 4 = none ∧ memRead State.reset 0x10FF 1 = some 0
    ∧ memRead State.reset 0x1100 1 = none ∧ memRead State.reset 0x2207 1 = some 0 ∧ memRead State.reset 0x2208 1 = none
    ∧ memRead State.reset 0x1002 4 = none := by decide +kernel

theorem test_bus_writes : memWrite State.reset 0x000 4 1 0 = none ∧ memWrite State.reset 0x070 1 0x31 0 = none
    ∧ (memWrite State.reset 0x1000 4 0x34333231 0).bind (memRead · 0x1002 2) = some 0x3433
    ∧ (memWrite State.reset 0x040 4 0x00010005 0).bind (memRead · 0x040 4) = some 5
    ∧ memWrite hotp 0x1000 1 0 0 = none ∧ memWrite hotp 0x040 4 0 0 = none
    ∧ (memWrite hotp 0x2000 4 0x41414141 0).isSome = true := by decide +kernel

/-- A `CMD` write, the refusals while busy, and the completion with its interrupt. -/
theorem test_issue_and_complete :
    let s : State := { State.reset with inten := 1, agenda := [.write 0x008 4 0x00000002 7] }
    let b := nextOf (step s)
    b.bind (memRead · 0x00C 4) = some 1 ∧ b.bind (memRead · 0x018 4) = none ∧ (b.bind (memWrite · 0x008 4 0x110 0)).isNone = true
    ∧ b.map (·.tsamp) = some 7 ∧ b.map irq = some false
    ∧ (b.bind fun t => nextOf (step t)).map (fun t => (irq t, t.intstat, t.busy)) = some (true, 1, false) := by decide +kernel

/-! ### Witnesses: the hypotheses of the obligations can be met -/

theorem witness_hotp_inv : hotp.Inv := by
  constructor <;> decide +kernel

theorem witness_totp_inv : totp.Inv := by
  constructor <;> decide +kernel

/-- A state with the word `w` in flight. -/
def inFlight (w : Word) : State := { hotp with pending := some w, busy := true }

theorem witness_inFlight_inv (w : Word) : (inFlight w).Inv := by
  have h := witness_hotp_inv
  exact ⟨h.1, h.2, h.3, h.4, h.5, rfl, h.7, h.8, h.9, h.10, h.11, fun h => absurd h Bool.false_ne_true⟩

theorem witness_DecodeOfEncode : (Instr.init .totp 10).wf = true ∧ (Instr.init .hotp 1).wf = true ∧ (Instr.setmaxw 255).wf = true
    ∧ (Instr.setmaxw 1).wf = true ∧ (Instr.b32enc false true).wf = true := by decide

theorem witness_EncodeOfDecode : decode 0x000A0101 = .ok (.init .totp 10) := rfl

theorem witness_DecodeFollowsOpcodeTable : (∃ r ∈ opcodeTable, r.accepts 0x000A0001 = true) ∧ ∃ i, decode 0x00FF0005 = .ok i :=
  ⟨by decide, _, rfl⟩

theorem witness_StepRunsPendingCommand : (inFlight 0x00000311).busy = true ∧ (inFlight 0x00000311).pending = some 0x00000311
    ∧ decode 0x00000311 = .ok (.verify true true) ∧ (inFlight 0x00000311).agenda = []
    ∧ { inFlight 0x00000311 with agenda := [.engine, .read 0 4] }.agenda = Turn.engine :: [.read 0 4] :=
  ⟨rfl, rfl, rfl, rfl, rfl⟩

theorem witness_FetchedWordRuns : decodeTableWord 32 0x00000021 = some .b32dec := rfl

theorem witness_IllegalWordCompletes : (inFlight 0x00000320).busy = true ∧ (inFlight 0x00000320).pending = some 0x00000320
    ∧ (∀ r ∈ opcodeTable, r.accepts 0x00000320 = false) ∧ (inFlight 0x00000320).agenda = []
    ∧ { inFlight 0x00000320 with agenda := [.engine] }.agenda = Turn.engine :: [] := by decide +kernel

theorem witness_IdleEngineChangesNothing : hotp.busy = false ∧ hotp.agenda = []
    ∧ { hotp with agenda := [.engine] }.agenda = Turn.engine :: [] := by decide +kernel

theorem witness_FailedCommandLeavesNoTrace : (inFlight 0).busy = true
    ∧ engineTurn (inFlight 0) = .next ((inFlight 0).afterError 0x10) ∧ ((inFlight 0).afterError 0x10).err ≠ 0 :=
  ⟨rfl, rfl, by decide⟩

theorem witness_StepNeverStops : (inFlight 0x00000110).Inv := witness_inFlight_inv _

theorem witness_InterruptOutput : { inFlight 0x00000004 with inten := 1 }.busy = true
    ∧ ({ inFlight 0x00000004 with inten := 1 } : State).inten.getLsbD 0 = true
    ∧ engineTurn { inFlight 0x00000004 with inten := 1 } = .next ({ inFlight 0x00000004 with inten := 1 }.afterError 0x11)
    ∧ hotp.inten = 0 := ⟨rfl, rfl, rfl, rfl⟩

theorem witness_ResetValues : (⟨64⟩ : Params).Legal ∧ (⟨2048⟩ : Params).Legal ∧ Params.standard.Legal := by decide

theorem witness_ResetSatisfiesInvariant : (⟨64⟩ : Params).Legal ∧ (⟨2048⟩ : Params).Legal := by decide

theorem witness_StepKeepsInvariant : hotp.Inv
    ∧ ({ hotp with agenda := [.write 0x2000 1 0x41 0] } : State).Inv
    ∧ nextOf (step { hotp with agenda := [.write 0x2000 1 0x41 0] })
      = some { hotp with mem := hotp.mem.write 0x2000 0x41, reply := .written } := by
  refine ⟨witness_hotp_inv, ?_, by decide +kernel⟩
  constructor <;> decide +kernel

theorem witness_ResetDiscardsCommand : { inFlight 2 with agenda := [.rst true] }.agenda = Turn.rst true :: []
    ∧ ({ hotp with rst := true, agenda := [.rst false] } : State).agenda = Turn.rst false :: []
    ∧ ({ hotp with rst := true, agenda := [.rst false] } : State).rst = true
    ∧ ({ hotp with agenda := [.rst false] } : State).agenda = Turn.rst false :: [] ∧ hotp.rst = false := ⟨rfl, rfl, rfl, rfl, rfl⟩

/-- Boundary offsets of R68: the last mapped and the first unmapped byte of the register region and of `SECRET`, a read-only and a
locked location, and a location outside the status group. -/
theorem witness_AccessRefusedExactlyWhen : hotp.par.Legal ∧ hotp.rst = false ∧ MappedAt hotp.par 0x10FF ∧ ¬ MappedAt hotp.par 0x1100
    ∧ MappedAt hotp.par 0x01B ∧ ¬ MappedAt hotp.par 0x01C ∧ ReadOnlyAt 0x07F ∧ ¬ ReadOnlyAt 0x010 ∧ LockedAt hotp.par 0x10FF
    ∧ hotp.ready = true ∧ (inFlight 2).busy = true ∧ ¬ BusyReadableAt 0x018 ∧ ¬ BusyWritableAt 0x00C := by
  refine ⟨by decide +kernel, rfl, ?_, ?_, ?_, ?_, ?_, ?_, ?_, rfl, rfl, ?_, ?_⟩ <;>
    simp [MappedAt, ReadOnlyAt, LockedAt, BusyReadableAt, BusyWritableAt, show hotp.par = ⟨256⟩ from rfl, Params.textMax]

theorem witness_BusyServesOnlyStatusGroup : (inFlight 2).busy = true ∧ (inFlight 2).rst = false := ⟨rfl, rfl⟩

theorem witness_ReadsAndRefusalsChangeNothing :
    memRead { hotp with agenda := [] } 0x10FF 1 = some 0 ∧ memRead hotp 0x1100 1 = none ∧ memWrite hotp 0x1000 1 0 0 = none
    ∧ { hotp with agenda := [.read 0x10FF 1] }.agenda = Turn.read 0x10FF 1 :: []
    ∧ memWrite { hotp with agenda := [.write 0x028 4 3 0] } 0x028 4 3 0
      = some { hotp with agenda := [.write 0x028 4 3 0], window := 3 } := by decide +kernel

theorem witness_RegisterReadValues : totp.rst = false ∧ totp.par.Legal ∧ totp.busy = false ∧ (inFlight 2).rst = false
    ∧ (inFlight 2).busy = true := by decide +kernel

theorem witness_StatusAndCfgLayout : memRead totp 0x00C 4 = some 0x00000002 ∧ memRead totp 0x018 4 = some 0x00030810 := by
  decide +kernel

theorem witness_RegisterWriteEffects : hotp.busy = false ∧ hotp.rst = false ∧ hotp.ready = true ∧ loaded.ready = false
    ∧ loaded.busy = false ∧ loaded.rst = false ∧ (inFlight 2).busy = true ∧ (inFlight 2).rst = false :=
  ⟨rfl, rfl, rfl, rfl, rfl, rfl, rfl, rfl⟩

theorem witness_ReservedBitsIgnored : (0xFFFFFFFF : Word) &&& 0x3 = 0x3 &&& 0x3 ∧ (0x00010005 : Word) &&& 0xFFFF = 5 &&& 0xFFFF
    ∧ (0x1FF : Word) &&& 0xFF = 0xFF &&& 0xFF := by decide

theorem witness_HalvesWrittenInEitherOrder : hotp.busy = false ∧ hotp.rst = false := ⟨rfl, rfl⟩

theorem witness_WriteOneToClear : (inFlight 2).rst = false := rfl

theorem witness_BufferAccessLanes : (0x060 : Offset).toNat = 0x060
    ∧ memWrite hotp 0x06C 4 0x34333231 0 = some { hotp with mem := hotp.mem.writeBytes 0x06C [0x31, 0x32, 0x33, 0x34] }
    ∧ memRead hotp 0x1010 4 = some 0x30393837 := by decide +kernel

theorem witness_CommandIssue : { hotp with agenda := [.write 0x008 4 0xFFFFFFFF 9] }.agenda = Turn.write 0x008 4 0xFFFFFFFF 9 :: []
    ∧ hotp.busy = false ∧ hotp.rst = false := ⟨rfl, rfl, rfl⟩

theorem witness_OperandsFrozenWhileBusy : (inFlight 2).busy = true
    ∧ nextOf (step { inFlight 2 with agenda := [.write 0x020 4 1 0] }) = some { inFlight 2 with reply := .err }
    ∧ nextOf (step { inFlight 2 with agenda := [.read 0x020 4] }) = some { inFlight 2 with reply := .err } :=
  ⟨rfl, by decide +kernel, by decide +kernel⟩

theorem witness_SecretLockedWhileReady : (inFlight 2).Inv ∧ (inFlight 2).ready = true ∧ (inFlight 0x00010003).Inv
    ∧ (nextOf (step (inFlight 2))).map (·.ready) = some false
    ∧ (nextOf (step (inFlight 0x00010003))).map (·.ready) = some true :=
  ⟨witness_inFlight_inv _, rfl, witness_inFlight_inv _, by decide +kernel, by decide +kernel⟩

theorem witness_DigitsAndTypeFixedWhileReady : step (inFlight 4) = .next ((inFlight 4).afterError 0x11)
    ∧ (inFlight 4).ready = true ∧ ((inFlight 4).afterError 0x11).ready = true := ⟨rfl, rfl, rfl⟩

/-- Commands that change what their clauses of the matrix are about. -/
theorem witness_CommandWriteMatrix : hotp.par.Legal
    ∧ (nextOf (exec (.init .totp 8) { loaded with matched := true, seq := 5 })).map (fun t => (t.ready, t.matched, t.digits))
      = some (true, false, 8)
    ∧ (nextOf (exec .clear { withText (withCand hotp [1]) [1] with opa := 1, timeStep := 60 })).map
        (fun t => (t.opa, t.timeStep, t.slen)) = some (0, 30, 0)
    ∧ (nextOf (exec .clear { withText (withCand hotp [1]) [1] with codelen := 6 })).map (fun t => (t.tlen, t.codelen, t.mem))
      = some (0, 0, []) := by
  refine ⟨by decide +kernel, by decide +kernel, by decide +kernel, by decide +kernel⟩

theorem witness_InitConstructs : (1#4).toNat = 1 ∧ (10#4).toNat = 10 ∧ loaded.ready = false ∧ hotp.ready = true
    ∧ ({ loaded with slen := 256 } : State).slen.toNat ≤ loaded.par.secretMax
    ∧ loaded.par.secretMax < ({ loaded with slen := 257 } : State).slen.toNat ∧ (0#4).toNat = 0 ∧ 10 < (11#4).toNat := by
  decide +kernel

theorem witness_ClearedStateIsReset : hotp.inten = 0 ∧ exec .clear hotp = .next hotp.zeroize.afterSuccess
    ∧ hotp.busy = false ∧ step hotp = .next hotp := ⟨rfl, rfl, rfl, rfl⟩

theorem witness_SetalgSwitchesAlgorithm : hotp.ready = true ∧ loaded.ready = false := ⟨rfl, rfl⟩

theorem witness_SetmaxwSetsWindow : (255#8) ≠ 0 ∧ (1#8) ≠ 0 ∧ hotp.ready = true ∧ loaded.ready = false := by decide +kernel

theorem witness_SetstepRejectsNonPositive : totp.ready = true ∧ totp.typ = .totp ∧ (1#64) ≠ 0 ∧ (1#64).getLsbD 63 = false
    ∧ (0x7FFFFFFFFFFFFFFF#64).getLsbD 63 = false ∧ (0x8000000000000000#64).getLsbD 63 = true ∧ hotp.typ = .hotp := by
  decide +kernel

theorem witness_GenWritesCode : hotp.ready = true ∧ totp.ready = true ∧ loaded.ready = false := ⟨rfl, rfl, rfl⟩

theorem witness_VerifySetsMatch : hotp.ready = true ∧ totp.ready = true ∧ loaded.ready = false := ⟨rfl, rfl, rfl⟩

theorem witness_B32encWritesText : loaded.par.Legal ∧ ({ loaded with slen := 256 } : State).slen.toNat ≤ loaded.par.secretMax
    ∧ loaded.par.secretMax < ({ loaded with slen := 257 } : State).slen.toNat := by decide +kernel

/-- A text for each clause: `foo`, a length above `TEXT_MAX`, an invalid character, and, for `SECRET_MAX = 64`, 104
characters that decode to 65 bytes. -/
theorem witness_B32decWritesSecret : loaded.ready = false ∧ hotp.ready = true
    ∧ b32Decode (withText loaded [0x4D, 0x5A, 0x58, 0x57, 0x36]).textOf = some [0x66, 0x6F, 0x6F]
    ∧ loaded.par.textMax < ({ loaded with tlen := 521 } : State).tlen.toNat
    ∧ ({ loaded with tlen := 520 } : State).tlen.toNat ≤ loaded.par.textMax
    ∧ b32Decode (withText loaded [0x38]).textOf = none
    ∧ (withText (State.resetWith ⟨64⟩) (List.replicate 104 0x41)).tlen.toNat ≤ (⟨64⟩ : Params).textMax
    ∧ b32Decode (withText (State.resetWith ⟨64⟩) (List.replicate 104 0x41)).textOf = some (List.replicate 65 0) := by
  decide +kernel

theorem witness_DefaultCounterOfHotp : hotp.ready = true ∧ hotp.typ = .hotp := ⟨rfl, rfl⟩

theorem witness_DefaultCounterOfTotp : totp.ready = true ∧ totp.typ = .totp := ⟨rfl, rfl⟩

theorem witness_DecodeRejectsExactlyNonAlphabet : ([] : Bytes).getLast? ≠ some 0x3D ∧ ([0x3D, 0x20] : Bytes).getLast? ≠ some 0x3D
    ∧ ([0x4D, 0x59] : Bytes).getLast? ≠ some 0x3D := by decide

/-- Two strings of 32 bytes that differ at byte 19 and agree where the truncation can read. -/
theorem witness_TruncationOfDigest : ∃ dg dg' : Bytes, dg ≠ dg' ∧ dg.length = dg'.length
    ∧ (∀ i ≤ 18, dg.getD i 0#8 = dg'.getD i 0#8) ∧ dg.getD (dg.length - 1) 0#8 = dg'.getD (dg.length - 1) 0#8 :=
  ⟨List.replicate 32 1, List.replicate 19 1 ++ 7 :: List.replicate 12 1, by decide⟩

theorem witness_PaddedMessageShape : (64 : Nat) = 64 ∨ (64 : Nat) = 128 := .inl rfl

theorem witness_MessageScheduleRecurrence : (List.replicate 16 (1 : Word)).length = 16
    ∧ (List.replicate 16 (1 : DWord)).length = 16 := ⟨rfl, rfl⟩

theorem witness_HmacKeyCases : blockSize .sha1 < (List.replicate 65 (0xAA : Byte)).length
    ∧ rfcSecret.length + 44 ≤ blockSize .sha256 := by decide

/-- The interval `[30, 59]` of the default step, at both of its ends, and the other clauses' hypotheses. -/
theorem witness_TransformIntervals : totp.typ = .totp ∧ 1 ≤ totp.timeStep.toNat ∧ 1 * totp.timeStep.toNat ≤ (30#64).toNat
    ∧ (59#64).toNat ≤ 1 * totp.timeStep.toNat + totp.timeStep.toNat - 1 ∧ totp.ready = true
    ∧ (29#64).toNat ≤ totp.timeStep.toNat - 1 ∧ ({ totp with timeStep := 1 } : State).timeStep = 1 ∧ totp.timeStep = 30 := by
  decide +kernel

theorem witness_ScanIsCentred : 1 ≤ 1 ∧ 1 ≤ 255 ∧ 255 ≤ 255 := by decide

theorem witness_WindowIsClamped : (1 : Nat) ≤ 1 ∧ (-5 : Int) ≤ 0 ∧ (1 : Int) ≤ 255 ∧ ((3 : Nat) : Int) < 4 := by decide

/-- The state after `GEN` of counter 1. -/
def generated : State :=
  { hotp with opa := 1, mem := hotp.mem.writeBytes 0x070 (ascii [2, 8, 7, 0, 8, 2]), codelen := 6, intstat := 1 }

/-- The candidate loaded from the code that `GEN` made; and a candidate of length 0, which is no code. -/
theorem witness_VerifyAcceptsGeneratedCode :
    ({ hotp with opa := 1 } : State).ready = true ∧ 1 ≤ hotp.maxwin.toNat
    ∧ nextOf (exec (.gen false) { hotp with opa := 1 }) = some generated
    ∧ (withCand generated (ascii [2, 8, 7, 0, 8, 2])).clen.toNat = generated.codelen.toNat
    ∧ (∀ i < 20, (withCand generated (ascii [2, 8, 7, 0, 8, 2])).byteAt 0x1000 i = generated.byteAt 0x1000 i)
    ∧ (∀ j < 16, (withCand generated (ascii [2, 8, 7, 0, 8, 2])).byteAt 0x060 j = generated.byteAt 0x070 j)
    ∧ hotp.windowInt false = 1
    ∧ (List.range hotp.clen.toNat).map (hotp.byteAt 0x060)
      ≠ hotp.codeOf (scanCounterNat (hotp.counterNat false) (hotp.windowInt false) 0) := by decide +kernel

theorem witness_ExportedSecretReadsBack : loaded.par.Legal ∧ loaded.ready = false ∧ loaded.slen.toNat ≤ loaded.par.secretMax := by
  decide +kernel

theorem witness_SecretTailNeverRead : hotp.par.Legal
    ∧ ∀ a, ¬ (0x1000 + hotp.slen.toNat ≤ a ∧ a < 0x1000 + hotp.par.secretMax) →
      (hotp.mem.write 0x1014 7).read a = hotp.mem.read a := by
  refine ⟨by decide +kernel, fun a h => ?_⟩
  have hne : a ≠ 0x1014 := by rintro rfl; exact h (by decide +kernel)
  rw [Memory.read_write, if_neg hne]

theorem witness_CodeHoldsDigits : generated.Inv
    ∧ (∀ j < 16, (j < generated.codelen.toNat → 0x30 ≤ (generated.byteAt 0x070 j).toNat ∧ (generated.byteAt 0x070 j).toNat ≤ 0x39)
      ∧ (generated.codelen.toNat ≤ j → generated.byteAt 0x070 j = 0))
    ∧ step generated = .next generated := by
  refine ⟨?_, by decide +kernel, rfl⟩
  constructor <;> decide +kernel

end Sys2Proof.Tests
end

namespace Sys2Proof.Machine

/-! ### The map of the buffers (R60) -/

@[simp] theorem Buf.base_secret : Buf.secret.base = 0x1000 := rfl
@[simp] theorem Buf.base_text : Buf.text.base = 0x2000 := rfl
@[simp] theorem Buf.base_cand : Buf.cand.base = 0x060 := rfl
@[simp] theorem Buf.base_code : Buf.code.base = 0x070 := rfl
@[simp] theorem Buf.cap_secret (p : Params) : Buf.secret.cap p = p.secretMax := rfl
@[simp] theorem Buf.cap_text (p : Params) : Buf.text.cap p = 2 * p.secretMax + 8 := rfl
@[simp] theorem Buf.cap_cand (p : Params) : Buf.cand.cap p = 16 := rfl
@[simp] theorem Buf.cap_code (p : Params) : Buf.code.cap p = 16 := rfl

/-- Every buffer begins and ends at a word offset, so an aligned access never leaves its buffer. -/
theorem Buf.aligned {p : Params} (hp : p.Legal) (b : Buf) : b.base % 4 = 0 ∧ b.cap p % 4 = 0 := by
  obtain ⟨-, -, hp⟩ := hp
  cases b <;> simp <;> omega

/-- No offset lies in two buffers. -/
theorem Buf.disjoint {p : Params} (hp : p.Legal) {b c : Buf} (hbc : b ≠ c) {a : Nat}
    (hb : b.base ≤ a ∧ a < b.base + b.cap p) : ¬ (c.base ≤ a ∧ a < c.base + c.cap p) := by
  obtain ⟨-, hp, -⟩ := hp
  cases b <;> cases c <;> simp at hbc hb ⊢ <;> omega

/-- An offset inside a buffer is mapped. -/
theorem bufAt_ne_none {p : Params} {b : Buf} {a : Nat} (h : b.base ≤ a ∧ a < b.base + b.cap p) : bufAt p a ≠ none := by
  intro hnone
  have hmem : b ∈ [Buf.cand, Buf.code, Buf.secret, Buf.text] := by cases b <;> decide
  exact List.find?_eq_none.mp hnone b hmem (by simpa [Buf.contains] using h)

/-- Filling one buffer leaves every byte of another one alone. -/
theorem State.read_fillBuf_other {s : State} (hp : s.par.Legal) {b c : Buf} (hcb : c ≠ b) (bs : Bytes) {i : Nat}
    (hi : i < c.cap s.par) : (s.fillBuf b bs).mem.read (c.base + i) = s.mem.read (c.base + i) := by
  rw [State.read_fillBuf, if_neg (Buf.disjoint hp hcb ⟨by omega, by omega⟩)]

/-! ### Register accesses (R62, R63, R68) -/

section
variable {s : State} {a : Offset} {r : Reg}

theorem memRead_reg (hl : locate s.par a.toNat = .reg r) (n : Nat) :
    memRead s a n = if refused s false a n then none else some (regRead s r) := by
  simp only [memRead, hl]

theorem memWrite_reg (hl : locate s.par a.toNat = .reg r) (n : Nat) (v : Word) (t : DWord) :
    memWrite s a n v t = if refused s true a n then none else regWrite s v t r := by
  simp only [memWrite, hl]

/-- A read of a register that is answered gives the register's word. -/
theorem memRead_reg_some (hl : locate s.par a.toNat = .reg r) {n : Nat} {v : Word} (h : memRead s a n = some v) :
    v = regRead s r := by
  rw [memRead_reg hl] at h
  split at h
  · cases h
  · exact (Option.some.inj h).symm

/-- A read of any register is served while the engine is idle. -/
theorem memRead_idle (a : Offset) (r : Reg) (hl : locate s.par a.toNat = .reg r) (ha : a.toNat % 4 = 0)
    (hb : s.busy = false) (hrst : s.rst = false) : memRead s a 4 = some (regRead s r) := by
  have hacc : refused s false a 4 = false := by
    rw [refused_eq_false, hl]
    simp [ha, hb, hrst]
  rw [memRead_reg hl, hacc, if_neg Bool.false_ne_true]

/-- A write of a register of the status group is served with any value of `BUSY` (R69). -/
theorem memWrite_status_group (a : Offset) (r : Reg) (hl : locate s.par a.toNat = .reg r) (ha : a.toNat % 4 = 0)
    (hr : r = .intstat ∨ r = .inten) (hrst : s.rst = false) (v : Word) (t : DWord) :
    memWrite s a 4 v t = regWrite s v t r := by
  have hacc : refused s true a 4 = false := by
    rw [refused_eq_false, hl]
    rcases hr with rfl | rfl <;> simp [ha, readOnly, secretLocked, busyAllowed, hrst]
  rw [memWrite_reg hl, hacc, if_neg Bool.false_ne_true]

/-- A write of a register that the host may write in both phases is served while the engine is idle. -/
theorem memWrite_idle (a : Offset) (r : Reg) (hl : locate s.par a.toNat = .reg r) (ha : a.toNat % 4 = 0)
    (hw : readOnly (.reg r) = false) (hk : secretLocked (.reg r) = false) (hb : s.busy = false) (hrst : s.rst = false)
    (v : Word) (t : DWord) : memWrite s a 4 v t = regWrite s v t r := by
  have hacc : refused s true a 4 = false := by
    rw [refused_eq_false, hl]
    simp [ha, hw, hk, hb, hrst]
  rw [memWrite_reg hl, hacc, if_neg Bool.false_ne_true]

/-- Two values with the same effect on a register have the same effect as accesses. -/
theorem memWrite_reg_congr (hl : locate s.par a.toNat = .reg r) {v v' : Word} {t : DWord}
    (h : regWrite s v t r = regWrite s v' t r) (n : Nat) : memWrite s a n v t = memWrite s a n v' t := by
  rw [memWrite_reg hl, memWrite_reg hl, h]

end

/-! ### Words -/

/-- Values that agree under a mask with all of the low `k` bits set have the same low `k` bits. -/
theorem setWidth_eq_of_and_eq {v v' m : Word} {k : Nat} (h : v &&& m = v' &&& m) (hm : ∀ i < k, m.getLsbD i = true) :
    v.setWidth k = v'.setWidth k := by
  refine BitVec.eq_of_getLsbD_eq fun i hi => ?_
  have hbit := congrArg (BitVec.getLsbD · i) h
  simpa [hm i hi, hi] using hbit

/-- The halves of a pair are its parts. -/
theorem loWord_append (hi lo : Word) : loWord (hi ++ lo) = lo := by
  refine BitVec.eq_of_getLsbD_eq fun i h => ?_
  have hbit : (hi ++ lo).getLsbD i = lo.getLsbD i := BitVec.getLsbD_append.trans (if_pos h)
  simpa [loWord, h] using hbit

theorem hiWord_append (hi lo : Word) : hiWord (hi ++ lo) = hi := by
  refine BitVec.eq_of_getLsbD_eq fun i h => ?_
  have hbit : (hi ++ lo).getLsbD (32 + i) = hi.getLsbD i := by
    rw [BitVec.getLsbD_append, if_neg (by omega), Nat.add_sub_cancel_left]
  simpa [hiWord, h] using hbit

theorem setHi_setLo (x : DWord) (lo hi : Word) : setHi (setLo x lo) hi = hi ++ lo := by
  rw [setHi, setLo, loWord_append]

theorem setLo_setHi (x : DWord) (lo hi : Word) : setLo (setHi x hi) lo = hi ++ lo := by
  rw [setHi, setLo, hiWord_append]

/-- The number of a 64-bit register is that of its halves. -/
theorem append_eq_ofNat (hi lo : Word) : hi ++ lo = BitVec.ofNat 64 (hi.toNat * 2 ^ 32 + lo.toNat) := by
  refine BitVec.eq_of_toNat_eq ?_
  have hhi := hi.isLt
  have hlo := lo.isLt
  rw [BitVec.toNat_append, ← Nat.shiftLeft_add_eq_or_of_lt hlo, Nat.shiftLeft_eq, BitVec.toNat_ofNat]
  omega

/-! ### Words of the read-only registers -/

/-- Words with no bit in common part by part have none in common. -/
theorem append_and_append_eq_zero {m n : Nat} {a c : BitVec m} {b d : BitVec n} (hac : a &&& c = 0) (hbd : b &&& d = 0) :
    (a ++ b) &&& (c ++ d) = 0 := by
  rw [BitVec.and_append, hac, hbd]
  exact BitVec.zero_append_zero

theorem statusWord_fields (s : State) :
    (statusWord s).getLsbD 0 = s.busy ∧ (statusWord s).getLsbD 1 = s.ready ∧ (statusWord s).getLsbD 2 = s.matched
      ∧ (statusWord s).extractLsb' 8 8 = s.err := by
  simp only [statusWord]
  refine ⟨by grind, by grind, by grind, ?_⟩
  ext i hi
  grind

theorem statusWord_reserved (s : State) : statusWord s &&& 0xFFFF00F8 = 0 := by
  have hmask : (0xFFFF00F8 : Word) = (0xFFFF#16 ++ 0#8) ++ (((0x1F#5 ++ 0#1) ++ 0#1) ++ 0#1) := by decide
  rw [hmask]
  exact append_and_append_eq_zero (append_and_append_eq_zero BitVec.zero_and BitVec.and_zero)
    (append_and_append_eq_zero (append_and_append_eq_zero (append_and_append_eq_zero BitVec.zero_and BitVec.and_zero)
      BitVec.and_zero) BitVec.and_zero)

theorem cfgWord_fields (s : State) :
    (cfgWord s).extractLsb' 0 2 = s.alg.code ∧ (cfgWord s).getLsbD 4 = decide (s.typ = .totp)
      ∧ (cfgWord s).extractLsb' 8 4 = s.digits ∧ (cfgWord s).extractLsb' 16 8 = s.maxwin := by
  have htyp : decide (s.typ = .totp) = s.typ.bit := by cases s.typ <;> rfl
  rw [htyp]
  simp only [cfgWord]
  refine ⟨?_, by grind, ?_, ?_⟩
  · ext i hi
    grind
  · ext i hi
    grind
  · ext i hi
    grind

theorem cfgWord_reserved (s : State) : cfgWord s &&& 0xFF00F0EC = 0 := by
  have hmask : (0xFF00F0EC : Word) = ((0xFF#8 ++ 0#8) ++ (0xF#4 ++ 0#4)) ++ ((7#3 ++ 0#1) ++ (3#2 ++ 0#2)) := by decide
  rw [hmask]
  exact append_and_append_eq_zero
    (append_and_append_eq_zero (append_and_append_eq_zero BitVec.zero_and BitVec.and_zero)
      (append_and_append_eq_zero BitVec.zero_and BitVec.and_zero))
    (append_and_append_eq_zero (append_and_append_eq_zero BitVec.zero_and BitVec.and_zero)
      (append_and_append_eq_zero BitVec.zero_and BitVec.and_zero))

/-! ### Reset values and register accesses: O13, O21, O23, O24, O25 -/

/-- Settles O25: `INTSTAT` is in the status group, and the write keeps the bits that are not written as 1. -/
theorem writeOneToClear : Obligations.WriteOneToClear := by
  intro s v t hrst
  have hwrite : memWrite s 0x010 4 v t = some { s with intstat := clearEvents s.intstat v } :=
    memWrite_status_group 0x010 .intstat rfl rfl (.inl rfl) hrst v t
  refine ⟨_, hwrite, fun k hk => ?_⟩
  simp [clearEvents, hk]

/-- Settles O24: the second write keeps the half that the first one wrote. -/
theorem halvesWrittenInEitherOrder : Obligations.HalvesWrittenInEitherOrder := by
  intro s lo hi t hb hrst
  simp only [← append_eq_ofNat]
  refine ⟨?_, ?_, ?_, ?_⟩
  · rw [memWrite_idle 0x020 .opaLo rfl rfl rfl rfl hb hrst, regWrite, Option.bind_some,
      memWrite_idle (s := { s with opa := setLo s.opa lo }) 0x024 .opaHi rfl rfl rfl rfl hb hrst, regWrite, setHi_setLo]
  · rw [memWrite_idle 0x024 .opaHi rfl rfl rfl rfl hb hrst, regWrite, Option.bind_some,
      memWrite_idle (s := { s with opa := setHi s.opa hi }) 0x020 .opaLo rfl rfl rfl rfl hb hrst, regWrite, setLo_setHi]
  · rw [memWrite_idle 0x038 .seqLo rfl rfl rfl rfl hb hrst, regWrite, Option.bind_some,
      memWrite_idle (s := { s with seq := setLo s.seq lo }) 0x03C .seqHi rfl rfl rfl rfl hb hrst, regWrite, setHi_setLo]
  · rw [memWrite_idle 0x03C .seqHi rfl rfl rfl rfl hb hrst, regWrite, Option.bind_some,
      memWrite_idle (s := { s with seq := setHi s.seq hi }) 0x038 .seqLo rfl rfl rfl rfl hb hrst, regWrite, setLo_setHi]

/-- Settles O23: each of the five registers takes only the low bits of the written value, which the mask fixes. -/
theorem reservedBitsIgnored : Obligations.ReservedBitsIgnored := by
  intro s v v' t
  refine ⟨fun h => ?_, fun h => ?_, fun h => ?_⟩
  · have hlow : v.setWidth 2 = v'.setWidth 2 := setWidth_eq_of_and_eq h (by decide)
    exact ⟨memWrite_reg_congr (r := .intstat) rfl (by simp only [regWrite, clearEvents, hlow]) 4,
      memWrite_reg_congr (r := .inten) rfl (by simp only [regWrite, hlow]) 4⟩
  · have hlow : v.setWidth 16 = v'.setWidth 16 := setWidth_eq_of_and_eq h (by decide)
    exact ⟨memWrite_reg_congr (r := .slen) rfl (by simp only [regWrite, hlow]) 4,
      memWrite_reg_congr (r := .tlen) rfl (by simp only [regWrite, hlow]) 4⟩
  · have hlow : v.setWidth 8 = v'.setWidth 8 := setWidth_eq_of_and_eq h (by decide)
    exact memWrite_reg_congr (r := .clen) rfl (by simp only [regWrite, hlow]) 4

/-- Settles O21: the word read is `statusWord` or `cfgWord`, whose fields and reserved bits are known. -/
theorem statusAndCfgLayout : Obligations.StatusAndCfgLayout := by
  intro s v
  refine ⟨fun h => ?_, fun h => ?_⟩
  · have hv : v = statusWord s := memRead_reg_some (r := .status) rfl h
    obtain ⟨hbusy, hready, hmatch, herr⟩ := statusWord_fields s
    rw [hv]
    exact ⟨hbusy, hready, hmatch, herr, statusWord_reserved s⟩
  · have hv : v = cfgWord s := memRead_reg_some (r := .cfg) rfl h
    obtain ⟨halg, htyp, hdigits, hmaxwin⟩ := cfgWord_fields s
    rw [hv]
    exact ⟨halg, htyp, hdigits, hmaxwin, cfgWord_reserved s⟩

/-- `CAP` as a number: the two capacities fit their halves (R6, R32). -/
theorem capWord_eq_ofNat {p : Params} (hp : p.Legal) : capWord p = BitVec.ofNat 32 (p.textMax * 2 ^ 16 + p.secretMax) := by
  obtain ⟨-, hmax, -⟩ := hp
  have hlow : (BitVec.ofNat 16 p.secretMax).toNat < 2 ^ 16 := BitVec.isLt _
  refine BitVec.eq_of_toNat_eq ?_
  rw [capWord, BitVec.toNat_append, ← Nat.shiftLeft_add_eq_or_of_lt hlow, Nat.shiftLeft_eq]
  simp only [BitVec.toNat_ofNat, Params.textMax]
  rw [Nat.mod_eq_of_lt (a := 2 * p.secretMax + 8) (by omega), Nat.mod_eq_of_lt (a := p.secretMax) (by omega),
    Nat.mod_eq_of_lt (by omega)]

/-- Settles O13: the fields are those of `State.resetWith`, and the four words are read from them. -/
theorem resetValues : Obligations.ResetValues := by
  rintro p hp s rfl
  have hread (a : Offset) (r : Reg) (hl : locate p a.toNat = .reg r) (ha : a.toNat % 4 = 0) :
      memRead (State.resetWith p) a 4 = some (regRead (State.resetWith p) r) := memRead_idle a r hl ha rfl rfl
  have hstatus : memRead (State.resetWith p) 0x00C 4 = some 0 := by
    rw [hread 0x00C .status rfl rfl]; simp [regRead, statusWord]
  have hcfg : memRead (State.resetWith p) 0x018 4 = some 0x00010600 := by
    rw [hread 0x018 .cfg rfl rfl]; simp [regRead, cfgWord, EngineType.bit, Alg.code]
  have hid : memRead (State.resetWith p) 0x000 4 = some 0x4F545045 := hread 0x000 .id rfl rfl
  have hcap : memRead (State.resetWith p) 0x004 4 = some (BitVec.ofNat 32 (p.textMax * 2 ^ 16 + p.secretMax)) := by
    rw [hread 0x004 .cap rfl rfl, regRead, State.resetWith_par, capWord_eq_ofNat hp]
  exact ⟨rfl, rfl, rfl, rfl, hstatus, rfl, rfl, hcfg, rfl, rfl, rfl, rfl, rfl, rfl, rfl, rfl, rfl, rfl, rfl, rfl,
    fun _ _ => rfl, rfl, rfl, hid, hcap⟩

end Sys2Proof.Machine

namespace Sys2Proof.Machine

/-! ### What one step can do (R8, R73) -/

/-- What one turn over the state `u` can give: the idle engine changes nothing, a read or a refused write shows its outcome, an
accepted write has its effect, the reset input takes a level, or the command in flight completes. -/
inductive TurnResult (u : State) : State → Prop
  | idle : TurnResult u u
  | port (r : BusReply) : TurnResult u { u with reply := r }
  | write {s' : State} {a : Offset} {n : Nat} {v : Word} {time : DWord} (h : memWrite u a n v time = some s') :
      TurnResult u { s' with reply := .written }
  | reset (level : Bool) : TurnResult u (u.driveReset level)
  | illegal (hbusy : u.busy = true) : TurnResult u (u.afterError 0x10)
  | command {t : State} (i : Instr) (hbusy : u.busy = true) (h : exec i u = .next t) : TurnResult u t

theorem hostWrite_result (u : State) (a : Offset) (n : Nat) (v : Word) (time : DWord) :
    TurnResult u (hostWrite u a n v time) := by
  unfold hostWrite
  split
  case h_1 s' h => exact .write h
  case h_2 => exact .port .err

theorem engineTurn_result {u t : State} (h : engineTurn u = .next t) : TurnResult u t := by
  rcases engineTurn_cases u with ⟨-, he⟩ | ⟨-, -, he⟩ | ⟨w, e, hbusy, -, -, he⟩ | ⟨w, i, hbusy, -, -, he⟩ <;> rw [he] at h
  · cases h; exact .idle
  · cases h
  · cases h; exact .illegal hbusy
  · exact .command i hbusy h

/-- A step is one turn over the state whose agenda has lost that turn. -/
theorem step_result {s t : State} (h : step s = .next t) : ∃ agenda, TurnResult { s with agenda := agenda } t := by
  cases hs : s.agenda with
  | nil =>
    rw [step_nil hs] at h
    exact ⟨s.agenda, engineTurn_result h⟩
  | cons turn rest =>
    rw [step_cons hs] at h
    refine ⟨rest, ?_⟩
    cases turn with
    | engine => exact engineTurn_result h
    | read a n =>
      cases h
      obtain ⟨r, hr⟩ := hostRead_eq { s with agenda := rest } a n
      rw [hr]
      exact .port r
    | write a n v time => cases h; exact hostWrite_result _ a n v time
    | rst level => cases h; exact .reset level

/-! ### What an accepted host write can do (R63) -/

/-- The fields that no accepted host write changes. -/
structure KeepsEngineFields (s s' : State) : Prop where
  par : s'.par = s.par
  ready : s'.ready = s.ready
  matched : s'.matched = s.matched
  err : s'.err = s.err
  alg : s'.alg = s.alg
  typ : s'.typ = s.typ
  digits : s'.digits = s.digits
  maxwin : s'.maxwin = s.maxwin
  timeStep : s'.timeStep = s.timeStep
  codelen : s'.codelen = s.codelen
  rst : s'.rst = s.rst
  agenda : s'.agenda = s.agenda

/-- The frame of a register write: the engine's own fields and every byte of the memory. -/
theorem regWrite_frame {s s' : State} {v : Word} {t : DWord} {r : Reg} (h : regWrite s v t r = some s') :
    KeepsEngineFields s s' ∧ s'.mem = s.mem := by
  cases r <;> cases h <;> exact ⟨⟨rfl, rfl, rfl, rfl, rfl, rfl, rfl, rfl, rfl, rfl, rfl, rfl⟩, rfl⟩

/-- The frame of an accepted write. -/
theorem memWrite_frame {s s' : State} {a : Offset} {n : Nat} {v : Word} {t : DWord} (h : memWrite s a n v t = some s') :
    KeepsEngineFields s s' := by
  obtain ⟨-, ⟨r, -, hr⟩ | ⟨b, -, rfl⟩⟩ := memWrite_cases h
  · exact (regWrite_frame hr).1
  · exact ⟨rfl, rfl, rfl, rfl, rfl, rfl, rfl, rfl, rfl, rfl, rfl, rfl⟩

/-- The bytes of an accepted buffer write lie in a buffer that the host may write in this phase. -/
theorem write_within_buffer {s : State} (hp : s.par.Legal) {a : Offset} {n : Nat} {b : Buf}
    (hacc : refused s true a n = false) (hl : locate s.par a.toNat = .buf b) :
    b ≠ .code ∧ b.base ≤ a.toNat ∧ a.toNat + n ≤ b.base + b.cap s.par := by
  obtain ⟨hn, halign, -, -, hro, -⟩ := (refused_eq_false s true a n).mp hacc
  obtain ⟨hlow, hhigh⟩ := locate_buf hl
  obtain ⟨hbase, hcap⟩ := Buf.aligned hp b
  refine ⟨?_, hlow, ?_⟩
  · rintro rfl
    rw [hl] at hro
    exact absurd (hro rfl) (by decide)
  · rcases hn with rfl | rfl | rfl <;> omega

/-! ### The digit count, the type and the parameter (R30) -/

/-- `INIT` is the only command that sets the digit count and the type, and it is not permitted in phase READY. -/
theorem exec_keeps_digits_typ {i : Instr} {s t : State} (h : exec i s = .next t) :
    t.par = s.par ∧ (s.ready = true → t.ready = true → t.digits = s.digits ∧ t.typ = s.typ) := by
  rcases exec_cases i s with ⟨code, -, -, he⟩ | ⟨r, he, -, hperm, hr⟩ <;> (rw [he] at h; cases h)
  · exact ⟨rfl, fun _ _ => ⟨rfl, rfl⟩⟩
  · cases i
    case init ty d =>
      obtain ⟨-, rfl⟩ := hr
      have hempty : s.ready = false := by simpa [permitted] using hperm
      exact ⟨rfl, fun hready => absurd hready (by simp [hempty])⟩
    case clear => subst hr; exact ⟨rfl, fun _ hready => absurd hready Bool.false_ne_true⟩
    case setalg => subst hr; exact ⟨rfl, fun _ _ => ⟨rfl, rfl⟩⟩
    case setstep => obtain ⟨-, rfl⟩ := hr; exact ⟨rfl, fun _ _ => ⟨rfl, rfl⟩⟩
    case setmaxw => subst hr; exact ⟨rfl, fun _ _ => ⟨rfl, rfl⟩⟩
    case gen => subst hr; exact ⟨rfl, fun _ _ => ⟨rfl, rfl⟩⟩
    case verify => subst hr; exact ⟨rfl, fun _ _ => ⟨rfl, rfl⟩⟩
    case b32enc => obtain ⟨-, -, -, rfl⟩ := hr; exact ⟨rfl, fun _ _ => ⟨rfl, rfl⟩⟩
    case b32dec => obtain ⟨-, -, -, -, rfl⟩ := hr; exact ⟨rfl, fun _ _ => ⟨rfl, rfl⟩⟩

/-- A driven reset input either leaves the state as it is or gives the reset state with that level. -/
theorem driveReset_cases (s : State) (level : Bool) :
    s.driveReset level = s ∨ s.driveReset level = { State.resetWith s.par with rst := level, agenda := s.agenda } := by
  unfold State.driveReset
  split
  · exact .inr rfl
  · exact .inl rfl

/-- Settles O30: the only turns that set the digit count or the type leave phase READY or are refused in it. -/
theorem digitsAndTypeFixedWhileReady : Obligations.DigitsAndTypeFixedWhileReady := by
  intro s t h
  obtain ⟨agenda, hturn⟩ := step_result h
  cases hturn with
  | idle => exact ⟨rfl, fun _ _ => ⟨rfl, rfl⟩⟩
  | port => exact ⟨rfl, fun _ _ => ⟨rfl, rfl⟩⟩
  | write hw =>
    have hframe := memWrite_frame hw
    exact ⟨hframe.par, fun _ _ => ⟨hframe.digits, hframe.typ⟩⟩
  | reset level =>
    rcases driveReset_cases { s with agenda := agenda } level with he | he <;> rw [he]
    · exact ⟨rfl, fun _ _ => ⟨rfl, rfl⟩⟩
    · exact ⟨rfl, fun _ hready => absurd hready Bool.false_ne_true⟩
  | illegal => exact ⟨rfl, fun _ _ => ⟨rfl, rfl⟩⟩
  | command i _ hexec => exact exec_keeps_digits_typ (s := { s with agenda := agenda }) hexec

/-! ### The invariant (R48, R251) -/

section
variable {s : State}

/-- While the reset input is low the invariant says nothing of these fields. -/
theorem State.Inv.with_free_fields (h : s.Inv) (hrst : s.rst = false) (intstat inten : BitVec 2) (seq opa : BitVec 64)
    (window : BitVec 32) (tlen : BitVec 16) (clen : BitVec 8) (tsamp : BitVec 64) :
    { s with intstat := intstat, inten := inten, seq := seq, opa := opa, window := window, tlen := tlen, clen := clen
             tsamp := tsamp : State }.Inv :=
  { h with rst_state := fun hr => absurd hr (by simp [hrst]) }

/-- The agenda and the reply are free at every level of the reset input. -/
theorem State.Inv.with_agenda_reply (h : s.Inv) (agenda : List Turn) (reply : BusReply) :
    { s with agenda := agenda, reply := reply }.Inv :=
  { h with rst_state := fun hr => congrArg (fun u : State => { u with agenda := agenda, reply := reply }) (h.rst_state hr) }

/-- The command in flight, none or one, and `BUSY` with it. -/
theorem State.Inv.with_pending (h : s.Inv) (hrst : s.rst = false) (p : Option Word) :
    { s with pending := p, busy := p.isSome }.Inv :=
  { h with busy_pending := rfl, rst_state := fun hr => absurd hr (by simp [hrst]) }

theorem State.Inv.with_err (h : s.Inv) (hrst : s.rst = false) {e : Byte} (he : e ∈ errCodes) : { s with err := e }.Inv :=
  { h with err_code := he, rst_state := fun hr => absurd hr (by simp [hrst]) }

/-- `SLEN` is bounded in phase READY only. -/
theorem State.Inv.with_slen (h : s.Inv) (hrst : s.rst = false) {slen : BitVec 16}
    (hlen : s.ready = true → slen.toNat ≤ s.par.secretMax) : { s with slen := slen }.Inv :=
  { h with ready_slen := hlen, rst_state := fun hr => absurd hr (by simp [hrst]) }

theorem State.Inv.with_mem (h : s.Inv) (hrst : s.rst = false) {m : Memory} (hwf : Memory.wf m)
    (hm : ∀ c ∈ m, bufAt s.par c.1 ≠ none) : { s with mem := m }.Inv :=
  { h with mem_wf := hwf, mem_mapped := hm, rst_state := fun hr => absurd hr (by simp [hrst]) }

/-- While a command is in flight the reset input is low, so every state that a command makes may use the lemmas above. -/
theorem State.Inv.rst_low_of_busy (h : s.Inv) (hb : s.busy = true) : s.rst = false := by
  by_contra hr
  have hreset := congrArg State.busy (h.rst_state (Bool.not_eq_false _ ▸ hr))
  exact Bool.false_ne_true (hreset.symm.trans hb)

/-- The writes of a completion (R262). -/
theorem State.Inv.completed (h : s.Inv) (hrst : s.rst = false) {e : Byte} (he : e ∈ errCodes) (events : BitVec 2) :
    { s with err := e, busy := false, pending := none, intstat := events }.Inv :=
  ((h.with_pending hrst none).with_err hrst he).with_free_fields hrst events _ _ _ _ _ _ _

theorem State.Inv.afterSuccess (h : s.Inv) (hrst : s.rst = false) : s.afterSuccess.Inv := h.completed hrst (by decide) _

theorem State.Inv.afterError (h : s.Inv) (hrst : s.rst = false) {e : Byte} (he : e ∈ errCodes) : (s.afterError e).Inv :=
  h.completed hrst he _

theorem State.Inv.with_filled_buf (h : s.Inv) (hrst : s.rst = false) (b : Buf) (bs : Bytes) :
    { s with mem := (s.fillBuf b bs).mem }.Inv := by
  refine h.with_mem hrst (State.fillBuf_wf h.mem_wf b bs) fun c hc => ?_
  rcases Memory.mem_writeBytes hc with hnew | hold
  · rw [fit_length] at hnew
    exact bufAt_ne_none hnew
  · exact h.mem_mapped c hold

end

/-- The reset state meets the invariant at either level of the reset input, with any turns still to be taken. -/
theorem resetWith_inv {p : Params} (hp : p.Legal) (level : Bool) (agenda : List Turn) :
    { State.resetWith p with rst := level, agenda := agenda }.Inv where
  par_legal := hp
  digits_range := by simp
  maxwin_range := by simp
  step_range := by simp
  codelen_cases := .inl rfl
  busy_pending := rfl
  ready_slen := fun hr => absurd hr Bool.false_ne_true
  empty_config := fun _ => ⟨rfl, rfl, rfl, rfl, rfl, rfl, rfl⟩
  err_code := by simp [errCodes]
  mem_wf := State.reset_mem_wf p
  mem_mapped := fun _ hc => absurd hc List.not_mem_nil
  rst_state := by rintro rfl; rfl

/-- Settles O14: reset with the input low and no turns to take. -/
theorem resetSatisfiesInvariant : Obligations.ResetSatisfiesInvariant := fun _ hp => resetWith_inv hp false []

/-! ### The commands keep the invariant -/

section
variable {s : State}

theorem State.Inv.construct (h : s.Inv) (hrst : s.rst = false) (ty : EngineType) {d : BitVec 4} (hd : digitsLegal d = true)
    (hlen : s.slen.toNat ≤ s.par.secretMax) : (s.construct ty d).Inv :=
  { h.with_filled_buf hrst .code [] with
    digits_range := of_decide_eq_true hd
    maxwin_range := by cases ty <;> simp [initialMaxwin]
    step_range := by simp
    codelen_cases := .inl rfl
    ready_slen := fun _ => hlen
    empty_config := fun hr => absurd hr (by simp)
    rst_state := fun hr => absurd hr (by simp [hrst]) }

theorem State.Inv.zeroize (h : s.Inv) (hrst : s.rst = false) : s.zeroize.Inv :=
  { resetWith_inv h.par_legal false [] with
    busy_pending := h.busy_pending
    err_code := h.err_code
    rst_state := fun hr => absurd hr (by simp [hrst]) }

theorem toNat_of_toInt_pos {x : DWord} (h : 0 < x.toInt) : 1 ≤ x.toNat ∧ x.toNat < 2 ^ 63 := by
  rw [BitVec.toInt_eq_toNat_cond] at h
  split at h <;> omega

/-- The reconfigurations and the codes of a constructed engine. -/
theorem State.Inv.with_ready_config (h : s.Inv) (hrst : s.rst = false) (hready : s.ready = true) (alg : Alg) (matched : Bool)
    {maxwin : BitVec 8} {timeStep : BitVec 64} {codelen : BitVec 5} (hmax : 1 ≤ maxwin.toNat)
    (hstep : 1 ≤ timeStep.toNat ∧ timeStep.toNat < 2 ^ 63)
    (hlen : codelen.toNat = 0 ∨ codelen.toNat = s.digits.toNat) :
    { s with alg := alg, maxwin := maxwin, timeStep := timeStep, codelen := codelen, matched := matched : State }.Inv :=
  { h with
    maxwin_range := hmax
    step_range := hstep
    codelen_cases := hlen
    empty_config := fun hr => absurd (hready.symm.trans hr) (by decide)
    rst_state := fun hr => absurd hr (by simp [hrst]) }

end

/-- Every command that completes keeps the invariant. -/
theorem exec_inv {i : Instr} {s t : State} (h : s.Inv) (hrst : s.rst = false) (hexec : exec i s = .next t) : t.Inv := by
  rcases exec_cases i s with ⟨code, hcode, -, he⟩ | ⟨r, he, hwf, hperm, hr⟩ <;> (rw [he] at hexec; cases hexec)
  · exact h.afterError hrst hcode
  · cases i
    case init ty d =>
      obtain ⟨hlen, rfl⟩ := hr
      exact (h.construct hrst ty hwf hlen).afterSuccess hrst
    case clear =>
      subst hr
      exact (h.zeroize hrst).afterSuccess hrst
    case setalg a =>
      subst hr
      exact (h.with_ready_config hrst hperm _ _ h.maxwin_range h.step_range h.codelen_cases).afterSuccess hrst
    case setstep =>
      obtain ⟨hpos, rfl⟩ := hr
      have hready : s.ready = true := (Bool.and_eq_true_iff.mp hperm).1
      exact (h.with_ready_config hrst hready _ _ h.maxwin_range (toNat_of_toInt_pos hpos) h.codelen_cases).afterSuccess hrst
    case setmaxw n =>
      subst hr
      exact (h.with_ready_config hrst hperm _ _ (of_decide_eq_true hwf) h.step_range h.codelen_cases).afterSuccess hrst
    case gen d =>
      subst hr
      have hlen : (s.digits.setWidth 5).toNat = s.digits.toNat := BitVec.toNat_setWidth_of_le (by decide)
      have hfill := h.with_filled_buf hrst .code (s.codeAt (s.effectiveCounter d))
      have hgen := hfill.with_ready_config hrst hperm s.alg s.matched h.maxwin_range h.step_range (.inr hlen)
      exact (hgen.with_free_fields hrst _ _ (s.nextSeq d) _ _ _ _ _).afterSuccess hrst
    case verify d w =>
      subst hr
      have hverify := h.with_ready_config hrst hperm s.alg (s.verifyScan d w) h.maxwin_range h.step_range h.codelen_cases
      exact (hverify.with_free_fields hrst _ _ (s.nextSeq d) _ _ _ _ _).afterSuccess hrst
    case b32enc p g =>
      obtain ⟨-, form, -, rfl⟩ := hr
      exact ((h.with_filled_buf hrst .text _).with_free_fields hrst _ _ _ _ _ _ _ _).afterSuccess hrst
    case b32dec =>
      obtain ⟨-, b, -, -, rfl⟩ := hr
      have hempty : s.ready = false := by simpa [permitted] using hperm
      exact ((h.with_filled_buf hrst .secret b).with_slen hrst (fun hr => absurd hr (by simp [hempty]))).afterSuccess hrst

/-! ### The other turns keep the invariant -/

/-- A host write of a register keeps the invariant; `SLEN` is locked in phase READY (R70). -/
theorem regWrite_inv {s s' : State} {v : Word} {t : DWord} {r : Reg} (h : s.Inv) (hrst : s.rst = false)
    (hlock : s.ready = true → secretLocked (.reg r) = false) (hw : regWrite s v t r = some s') : s'.Inv := by
  cases r
  case cmd => cases hw; exact (h.with_pending hrst (some v)).with_free_fields hrst _ _ _ _ _ _ _ t
  case slen => cases hw; exact h.with_slen hrst fun hready => absurd (hlock hready) (by decide)
  all_goals cases hw
  all_goals exact h.with_free_fields hrst _ _ _ _ _ _ _ _

theorem memWrite_inv {s s' : State} {a : Offset} {n : Nat} {v : Word} {t : DWord} (h : s.Inv)
    (hw : memWrite s a n v t = some s') : s'.Inv := by
  obtain ⟨hacc, hcase⟩ := memWrite_cases hw
  obtain ⟨-, -, -, -, -, hlock, -, hrst⟩ := (refused_eq_false s true a n).mp hacc
  rcases hcase with ⟨r, hl, hr⟩ | ⟨b, hl, rfl⟩
  · exact regWrite_inv h hrst (hl ▸ hlock rfl) hr
  · obtain ⟨-, hlow, hhigh⟩ := write_within_buffer h.par_legal hacc hl
    refine h.with_mem hrst (Memory.writeBytes_wf h.mem_wf _ _) fun c hc => ?_
    rcases Memory.mem_writeBytes hc with hnew | hold
    · have hlen : (lanes v n).length = n := by simp [lanes]
      exact bufAt_ne_none (b := b) (by omega)
    · exact h.mem_mapped c hold

/-- Settles O15: each result of a turn keeps the invariant. -/
theorem stepKeepsInvariant : Obligations.StepKeepsInvariant := by
  intro s t hs hstep
  obtain ⟨agenda, hturn⟩ := step_result hstep
  have h : { s with agenda := agenda }.Inv := hs.with_agenda_reply agenda s.reply
  cases hturn with
  | idle => exact h
  | port r => exact h.with_agenda_reply agenda r
  | write hw => exact (memWrite_inv h hw).with_agenda_reply _ .written
  | reset level =>
    rcases driveReset_cases { s with agenda := agenda } level with he | he <;> rw [he]
    · exact h
    · exact resetWith_inv h.par_legal level agenda
  | illegal hbusy => exact h.afterError (h.rst_low_of_busy hbusy) (by decide)
  | command i hbusy hexec => exact exec_inv h (h.rst_low_of_busy hbusy) hexec

end Sys2Proof.Machine

namespace Sys2Proof.Machine

/-! ### The contents of `CODE` (R38, R42, R179): O58 -/

/-- The first `CODELEN` bytes of `CODE` are ASCII digits and the others are 0. -/
def State.CodeIsDigits (s : State) : Prop :=
  ∀ j < 16, (j < s.codelen.toNat → 0x30 ≤ (s.byteAt 0x070 j).toNat ∧ (s.byteAt 0x070 j).toNat ≤ 0x39)
    ∧ (s.codelen.toNat ≤ j → s.byteAt 0x070 j = 0)

theorem State.CodeIsDigits.of_same {s t : State} (h : s.CodeIsDigits) (hlen : t.codelen = s.codelen)
    (hcode : ∀ j < 16, t.byteAt 0x070 j = s.byteAt 0x070 j) : t.CodeIsDigits := by
  intro j hj
  rw [hlen, hcode j hj]
  exact h j hj

theorem codeIsDigits_of_zero {t : State} (hlen : t.codelen = 0) (hcode : ∀ j < 16, t.byteAt 0x070 j = 0) :
    t.CodeIsDigits :=
  fun j hj => ⟨fun h => absurd h (by simp [hlen]), fun _ => hcode j hj⟩

/-- Every character of a rendering is an ASCII digit (R178). -/
theorem renderDigits_isDigit (v d j : Nat) (hj : j < d) :
    0x30 ≤ ((renderDigits v d).getD j 0#8).toNat ∧ ((renderDigits v d).getD j 0#8).toNat ≤ 0x39 := by
  have hdigit : v / 10 ^ (d - 1 - j) % 10 < 10 := Nat.mod_lt _ (by decide)
  rw [renderDigits_getD v d j hj, BitVec.toNat_ofNat]
  omega

theorem codeIsDigits_of_code {t : State} {secret : Bytes} {alg : Alg} {d : Nat} {ctr : DWord} (hlen : t.codelen.toNat = d)
    (hcode : ∀ j < 16, t.byteAt 0x070 j = (codeStr secret alg d ctr).getD j 0#8) : t.CodeIsDigits := by
  intro j hj
  rw [hlen, hcode j hj]
  refine ⟨renderDigits_isDigit _ d j, fun hd => ?_⟩
  exact List.getD_eq_default _ _ (by simpa using hd)

/-- What a byte of `CODE` reads after `CODE` has been filled. -/
theorem State.read_fillBuf_code (s : State) (bs : Bytes) {j : Nat} (hj : j < 16) :
    (s.fillBuf .code bs).mem.read (0x070 + j) = bs.getD j 0#8 := by
  rw [State.read_fillBuf, if_pos ⟨by simp, by simp; omega⟩]
  simp

theorem exec_codeIsDigits {i : Instr} {s t : State} (hp : s.par.Legal) (h : s.CodeIsDigits) (hexec : exec i s = .next t) :
    t.CodeIsDigits := by
  rcases exec_cases i s with ⟨code, -, -, he⟩ | ⟨r, he, -, -, hr⟩ <;> (rw [he] at hexec; cases hexec)
  · exact h.of_same rfl fun _ _ => rfl
  · cases i
    case init ty d =>
      obtain ⟨-, rfl⟩ := hr
      refine codeIsDigits_of_zero rfl fun j hj => ?_
      show (s.fillBuf .code []).mem.read (0x070 + j) = [].getD j 0#8
      exact s.read_fillBuf_code [] hj
    case clear => subst hr; exact codeIsDigits_of_zero rfl fun _ _ => rfl
    case setalg => subst hr; exact h.of_same rfl fun _ _ => rfl
    case setstep => obtain ⟨-, rfl⟩ := hr; exact h.of_same rfl fun _ _ => rfl
    case setmaxw => subst hr; exact h.of_same rfl fun _ _ => rfl
    case gen d =>
      subst hr
      exact codeIsDigits_of_code (BitVec.toNat_setWidth_of_le (by decide)) fun j hj => s.read_fillBuf_code _ hj
    case verify => subst hr; exact h.of_same rfl fun _ _ => rfl
    case b32enc =>
      obtain ⟨-, form, -, rfl⟩ := hr
      exact h.of_same rfl fun j hj => State.read_fillBuf_other (c := .code) hp (by decide) _ hj
    case b32dec =>
      obtain ⟨-, b, -, -, rfl⟩ := hr
      exact h.of_same rfl fun j hj => State.read_fillBuf_other (c := .code) hp (by decide) _ hj

/-- The host cannot write `CODE` or `CODELEN` (R68 item 4). -/
theorem memWrite_codeIsDigits {s s' : State} {a : Offset} {n : Nat} {v : Word} {t : DWord} (hp : s.par.Legal)
    (h : s.CodeIsDigits) (hw : memWrite s a n v t = some s') : s'.CodeIsDigits := by
  refine h.of_same (memWrite_frame hw).codelen fun j hj => ?_
  obtain ⟨hacc, ⟨r, -, hr⟩ | ⟨b, hl, rfl⟩⟩ := memWrite_cases hw
  · simp only [State.byteAt, (regWrite_frame hr).2]
  · obtain ⟨hb, hlow, hhigh⟩ := write_within_buffer hp hacc hl
    have hcode : Buf.code.base ≤ 0x070 + j ∧ 0x070 + j < Buf.code.base + Buf.code.cap s.par := by
      simp only [Buf.base_code, Buf.cap_code]; omega
    have hother := Buf.disjoint hp hb.symm hcode
    have hlen : (lanes v n).length = n := by simp [lanes]
    exact (Memory.read_writeBytes _ _ _ _).trans (if_neg (by omega))

/-- Settles O58: only `INIT`, `CLEAR`, `GEN` and reset write `CODE` and `CODELEN`, and they write both. -/
theorem codeHoldsDigits : Obligations.CodeHoldsDigits := by
  intro s t hs hcode hstep
  obtain ⟨agenda, hturn⟩ := step_result hstep
  have h : State.CodeIsDigits { s with agenda := agenda } := hcode
  have hp : s.par.Legal := hs.par_legal
  show t.CodeIsDigits
  cases hturn with
  | idle => exact h
  | port r => exact h
  | write hw => exact (memWrite_codeIsDigits (s := { s with agenda := agenda }) hp h hw).of_same rfl fun _ _ => rfl
  | reset level =>
    rcases driveReset_cases { s with agenda := agenda } level with he | he <;> rw [he]
    · exact h
    · exact codeIsDigits_of_zero rfl fun _ _ => rfl
  | illegal => exact h
  | command i _ hexec => exact exec_codeIsDigits (s := { s with agenda := agenda }) hp h hexec

/-! ### The write columns of R49: O31 -/

/-- Settles O31: a failed command changes none of these fields, a successful one those of its own write-set. -/
theorem commandWriteMatrix : Obligations.CommandWriteMatrix := by
  intro i s t hp hexec
  have hsecret (b : Buf) (hb : .secret ≠ b) (bs : Bytes) (k : Nat) (hk : k < s.par.secretMax) :
      (s.fillBuf b bs).mem.read (0x1000 + k) = s.mem.read (0x1000 + k) := State.read_fillBuf_other hp hb bs hk
  have htext (b : Buf) (hb : .text ≠ b) (bs : Bytes) (k : Nat) (hk : k < s.par.textMax) :
      (s.fillBuf b bs).mem.read (0x2000 + k) = s.mem.read (0x2000 + k) := State.read_fillBuf_other hp hb bs hk
  have hcand (b : Buf) (hb : .cand ≠ b) (bs : Bytes) (k : Nat) (hk : k < 16) :
      (s.fillBuf b bs).mem.read (0x060 + k) = s.mem.read (0x060 + k) := State.read_fillBuf_other hp hb bs hk
  have hcode (b : Buf) (hb : .code ≠ b) (bs : Bytes) (k : Nat) (hk : k < 16) :
      (s.fillBuf b bs).mem.read (0x070 + k) = s.mem.read (0x070 + k) := State.read_fillBuf_other hp hb bs hk
  rcases exec_cases i s with ⟨code, -, -, he⟩ | ⟨r, he, -, -, hr⟩ <;> (rw [he] at hexec; cases hexec)
  · simp [State.afterError, State.byteAt]
  · cases i
    case init ty d =>
      obtain ⟨-, rfl⟩ := hr
      simpa [State.afterSuccess, State.byteAt, Instr.mnemonic] using
        And.intro (hsecret .code (by decide) []) ⟨htext .code (by decide) [], hcand .code (by decide) []⟩
    case clear => simp [Instr.mnemonic]
    case setalg | setmaxw | verify => subst hr; simp [State.afterSuccess, State.byteAt, Instr.mnemonic]
    case setstep => obtain ⟨-, rfl⟩ := hr; simp [State.afterSuccess, State.byteAt, Instr.mnemonic]
    case gen d =>
      subst hr
      simpa [State.afterSuccess, State.byteAt, Instr.mnemonic] using
        And.intro (hsecret .code (by decide) _) ⟨htext .code (by decide) _, hcand .code (by decide) _⟩
    case b32enc =>
      obtain ⟨-, form, -, rfl⟩ := hr
      simpa [State.afterSuccess, State.byteAt, Instr.mnemonic] using
        And.intro (hsecret .text (by decide) _) ⟨hcand .text (by decide) _, hcode .text (by decide) _⟩
    case b32dec =>
      obtain ⟨-, b, -, -, rfl⟩ := hr
      simpa [State.afterSuccess, State.byteAt, Instr.mnemonic] using
        And.intro (htext .secret (by decide) b) ⟨hcand .secret (by decide) b, hcode .secret (by decide) b⟩

/-! ### The bytes of `SECRET` at and beyond `SLEN` (R39): O57 -/

/-- The two states are the same but for bytes at offsets of `tail`. -/
def SameOff (tail : Nat → Prop) (s s' : State) : Prop :=
  ∃ m : Memory, s' = { s with mem := m } ∧ ∀ a, ¬ tail a → m.read a = s.mem.read a

/-- The two outcomes are next states that are the same but for bytes at offsets of `tail`. -/
def NextSameOff (tail : Nat → Prop) (r r' : StepResult) : Prop :=
  ∃ t t', r = .next t ∧ r' = .next t' ∧ SameOff tail t t'

section
variable {tail : Nat → Prop} {s s' : State}

theorem SameOff.succeed (h : SameOff tail s s') : NextSameOff tail (succeed s) (succeed s') := by
  obtain ⟨m, rfl, hm⟩ := h
  exact ⟨_, _, rfl, rfl, m, rfl, hm⟩

theorem SameOff.raiseError (h : SameOff tail s s') (e : ErrKind) :
    NextSameOff tail (raiseError e s) (raiseError e s') := by
  obtain ⟨m, rfl, hm⟩ := h
  exact ⟨_, _, rfl, rfl, m, rfl, hm⟩

/-- The tests of a command read no memory. -/
theorem SameOff.guarded (h : SameOff tail s s') (i : Instr) {k k' : State → StepResult} (hk : NextSameOff tail (k s) (k' s')) :
    NextSameOff tail (guarded i s k) (guarded i s' k') := by
  obtain ⟨hready, htyp⟩ : s'.ready = s.ready ∧ s'.typ = s.typ := by
    obtain ⟨m, rfl, -⟩ := h
    exact ⟨rfl, rfl⟩
  unfold Machine.guarded
  rw [hready, htyp]
  split
  · exact h.raiseError .illegalCommand
  · split
    · exact h.raiseError .notPermitted
    · exact hk

/-- Two tests of one condition that the memory does not enter. -/
theorem NextSameOff.ite {c : Prop} [Decidable c] {x y x' y' : StepResult} (hx : c → NextSameOff tail x x')
    (hy : ¬ c → NextSameOff tail y y') : NextSameOff tail (if c then x else y) (if c then x' else y') := by
  split
  case isTrue h => exact hx h
  case isFalse h => exact hy h

/-- Filling a buffer with the same bytes keeps the agreement. -/
theorem SameOff.read_fillBuf {m : Memory} (hm : ∀ a, ¬ tail a → m.read a = s.mem.read a) (b : Buf) (bs : Bytes) :
    ∀ a, ¬ tail a → (State.fillBuf { s with mem := m } b bs).mem.read a = (s.fillBuf b bs).mem.read a := by
  intro a ha
  rw [State.read_fillBuf, State.read_fillBuf, hm a ha]

end

/-- The offsets of the bytes of `SECRET` at and beyond `SLEN`. -/
def State.secretTail (s : State) (a : Nat) : Prop := 0x1000 + s.slen.toNat ≤ a ∧ a < 0x1000 + s.par.secretMax

section
variable {s : State} {m : Memory} (hm : ∀ a, ¬ s.secretTail a → m.read a = s.mem.read a)
include hm

theorem bufBytes_of_same {b : Buf} {n : Nat} (hb : ∀ j < n, ¬ s.secretTail (b.base + j)) :
    ({ s with mem := m } : State).bufBytes b n = s.bufBytes b n :=
  Memory.readBytes_congr fun j hj => hm _ (hb j hj)

theorem secretBytes_of_same : ({ s with mem := m } : State).secretBytes = s.secretBytes :=
  bufBytes_of_same hm fun j (hj : j < s.slen.toNat) => by simp only [State.secretTail, Buf.base_secret]; omega

theorem textInput_of_same (hp : s.par.Legal) : ({ s with mem := m } : State).textInput = s.textInput :=
  bufBytes_of_same hm fun j hj => by
    obtain ⟨-, hmax, -⟩ := hp
    simp only [State.secretTail, Buf.base_text]; omega

theorem codeAt_of_same : ({ s with mem := m } : State).codeAt = s.codeAt := by
  funext ctr
  simp only [State.codeAt, secretBytes_of_same hm]

theorem candMatches_of_same : ({ s with mem := m } : State).candMatches = s.candMatches := by
  funext code
  have hcand := bufBytes_of_same hm (b := .cand) (n := s.digits.toNat) fun j hj => by
    have hd : s.digits.toNat < 16 := s.digits.isLt
    simp only [State.secretTail, Buf.base_cand]; omega
  simp only [State.candMatches, hcand]

theorem verifyScan_of_same (d w : Bool) : ({ s with mem := m } : State).verifyScan d w = s.verifyScan d w := by
  unfold State.verifyScan
  rw [codeAt_of_same hm, candMatches_of_same hm]
  rfl

/-- Each command makes the same tests and writes the same bytes over both memories. -/
theorem exec_sameOff (hp : s.par.Legal) (i : Instr) : NextSameOff s.secretTail (exec i s) (exec i { s with mem := m }) := by
  have hsame : SameOff s.secretTail s { s with mem := m } := ⟨m, rfl, hm⟩
  have hfill (b : Buf) (bs : Bytes) := SameOff.read_fillBuf hm b bs
  cases i with
  | init ty d =>
    simp only [exec, execInit]
    exact hsame.guarded _ (.ite (fun _ => hsame.raiseError _) fun _ => SameOff.succeed ⟨_, rfl, hfill .code []⟩)
  | clear =>
    simp only [exec, execClear]
    exact hsame.guarded _ (SameOff.succeed ⟨[], rfl, fun _ _ => rfl⟩)
  | setalg a =>
    simp only [exec, execSetalg]
    exact hsame.guarded _ (SameOff.succeed ⟨m, rfl, hm⟩)
  | setstep =>
    simp only [exec, execSetstep]
    exact hsame.guarded _ (.ite (fun _ => hsame.raiseError _) fun _ => SameOff.succeed ⟨m, rfl, hm⟩)
  | setmaxw n =>
    simp only [exec, execSetmaxw]
    exact hsame.guarded _ (SameOff.succeed ⟨m, rfl, hm⟩)
  | gen d =>
    simp only [exec, execGen]
    refine hsame.guarded _ (SameOff.succeed ⟨_, ?_, hfill .code (s.codeAt (s.effectiveCounter d))⟩)
    rw [codeAt_of_same hm]
    rfl
  | verify d w =>
    simp only [exec, execVerify]
    refine hsame.guarded _ (SameOff.succeed ⟨m, ?_, hm⟩)
    rw [verifyScan_of_same hm]
    rfl
  | b32enc p g =>
    simp only [exec, execB32enc]
    refine hsame.guarded _ (.ite (fun _ => hsame.raiseError _) fun _ => ?_)
    rw [secretBytes_of_same hm]
    cases textForm p g with
    | none => exact hsame.raiseError .illegalCommand
    | some form => exact SameOff.succeed ⟨_, rfl, hfill .text _⟩
  | b32dec =>
    simp only [exec, execB32dec]
    refine hsame.guarded _ (.ite (fun _ => hsame.raiseError _) fun _ => ?_)
    rw [textInput_of_same hm hp]
    cases b32Decode s.textInput with
    | none => exact hsame.raiseError .invalidBase32Secret
    | some b => exact .ite (fun _ => hsame.raiseError _) fun _ => SameOff.succeed ⟨_, rfl, hfill .secret b⟩

end

/-- Settles O57: the tail of `SECRET` is none of the bytes that `exec_sameOff` lets a command depend on. -/
theorem secretTailNeverRead : Obligations.SecretTailNeverRead := by
  intro i s m hp hm
  obtain ⟨t, t', ht, ht', m', rfl, hm'⟩ := exec_sameOff hm hp i
  exact ⟨t, _, ht, ht', rfl, hm'⟩

end Sys2Proof.Machine

namespace Sys2Proof.Machine

/-! ### The secret in phase READY (R35, R39, R70): O29 -/

/-- The secret is as before while the phase is READY, and zero outside it. -/
def SecretLocked (s t : State) : Prop :=
  (t.ready = true → t.slen = s.slen ∧ ∀ i < s.par.secretMax, t.byteAt 0x1000 i = s.byteAt 0x1000 i)
    ∧ (t.ready = false → t.slen = 0 ∧ ∀ i < s.par.secretMax, t.byteAt 0x1000 i = 0)

theorem SecretLocked.of_same {s t : State} (hready : t.ready = true) (hlen : t.slen = s.slen)
    (hbytes : ∀ i < s.par.secretMax, t.byteAt 0x1000 i = s.byteAt 0x1000 i) : SecretLocked s t :=
  ⟨fun _ => ⟨hlen, hbytes⟩, fun h => absurd (hready.symm.trans h) (by decide)⟩

theorem SecretLocked.of_zero {s t : State} (hready : t.ready = false) (hlen : t.slen = 0) (hmem : t.mem = []) :
    SecretLocked s t := by
  refine ⟨fun h => absurd (hready.symm.trans h) (by decide), fun _ => ⟨hlen, fun i _ => ?_⟩⟩
  rw [State.byteAt, hmem, Memory.read_nil]
  rfl

/-- In phase READY a successful command fills no buffer but `TEXT` and `CODE`, or it is `CLEAR`; `INIT` and `B32DEC` are not
permitted there. -/
theorem exec_secretLocked {i : Instr} {s t : State} (hp : s.par.Legal) (hready : s.ready = true)
    (hexec : exec i s = .next t) : SecretLocked s t := by
  have hfill (b : Buf) (hb : .secret ≠ b) (bs : Bytes) (k : Nat) (hk : k < s.par.secretMax) :
      (s.fillBuf b bs).mem.read (0x1000 + k) = s.mem.read (0x1000 + k) := State.read_fillBuf_other hp hb bs hk
  rcases exec_cases i s with ⟨code, -, -, he⟩ | ⟨r, he, -, hperm, hr⟩ <;> (rw [he] at hexec; cases hexec)
  · exact .of_same hready rfl fun _ _ => rfl
  · cases i
    case init => exact absurd hperm (by simp [permitted, hready])
    case b32dec => exact absurd hperm (by simp [permitted, hready])
    case clear => subst hr; exact .of_zero rfl rfl rfl
    case setalg | setmaxw | verify => subst hr; exact .of_same hready rfl fun _ _ => rfl
    case setstep => obtain ⟨-, rfl⟩ := hr; exact .of_same hready rfl fun _ _ => rfl
    case gen => subst hr; exact .of_same hready rfl (hfill .code (by decide) _)
    case b32enc =>
      obtain ⟨-, form, -, rfl⟩ := hr
      exact .of_same hready rfl (hfill .text (by decide) _)

/-- An accepted write at a location that is not locked leaves `SLEN` alone. -/
theorem regWrite_slen {s s' : State} {v : Word} {t : DWord} {r : Reg} (hr : secretLocked (.reg r) = false)
    (h : regWrite s v t r = some s') : s'.slen = s.slen := by
  cases r
  case slen => exact absurd hr (by decide)
  all_goals cases h
  all_goals rfl

@[simp] theorem lanes_length (v : Word) (n : Nat) : (lanes v n).length = n := by simp [lanes]

/-- The bytes of an accepted buffer write lie outside every other buffer. -/
theorem read_bufWrite_other {s : State} (hp : s.par.Legal) {a : Offset} {n : Nat} {b c : Buf} (hcb : c ≠ b)
    (hacc : refused s true a n = false) (hl : locate s.par a.toNat = .buf b) (v : Word) {i : Nat} (hi : i < c.cap s.par) :
    (s.mem.writeBytes a.toNat (lanes v n)).read (c.base + i) = s.mem.read (c.base + i) := by
  obtain ⟨-, hlow, hhigh⟩ := write_within_buffer hp hacc hl
  have hother := Buf.disjoint hp hcb (a := c.base + i) ⟨by omega, by omega⟩
  rw [Memory.read_writeBytes, lanes_length, if_neg (by omega)]

/-- The host can write neither `SLEN` nor `SECRET` in phase READY (R68 item 5). -/
theorem memWrite_secretLocked {s s' : State} {a : Offset} {n : Nat} {v : Word} {t : DWord} (hp : s.par.Legal)
    (hready : s.ready = true) (hw : memWrite s a n v t = some s') : SecretLocked s s' := by
  have hready' : s'.ready = true := (memWrite_frame hw).ready.trans hready
  obtain ⟨hacc, hcase⟩ := memWrite_cases hw
  obtain ⟨-, -, -, -, -, hlock, -⟩ := (refused_eq_false s true a n).mp hacc
  specialize hlock rfl hready
  rcases hcase with ⟨r, hl, hr⟩ | ⟨b, hl, rfl⟩
  · refine .of_same hready' (regWrite_slen (hl ▸ hlock) hr) fun _ _ => ?_
    rw [State.byteAt, (regWrite_frame hr).2, State.byteAt]
  · have hb : .secret ≠ b := by
      rintro rfl
      rw [hl] at hlock
      exact absurd hlock (by decide)
    exact .of_same hready' rfl fun i hi => read_bufWrite_other hp hb hacc hl v hi

/-- Settles O29: in phase READY each turn keeps the secret, or it is `CLEAR` or the reset input and leaves all of it 0. -/
theorem secretLockedWhileReady : Obligations.SecretLockedWhileReady := by
  intro s t hs hready hstep
  obtain ⟨agenda, hturn⟩ := step_result hstep
  have hp : s.par.Legal := hs.par_legal
  show SecretLocked { s with agenda := agenda } t
  cases hturn with
  | idle => exact .of_same hready rfl fun _ _ => rfl
  | port => exact .of_same hready rfl fun _ _ => rfl
  | write hw =>
    have hkept := memWrite_secretLocked (s := { s with agenda := agenda }) hp hready hw
    exact hkept
  | reset level =>
    rcases driveReset_cases { s with agenda := agenda } level with he | he <;> rw [he]
    · exact .of_same hready rfl fun _ _ => rfl
    · exact .of_zero rfl rfl rfl
  | illegal => exact .of_same hready rfl fun _ _ => rfl
  | command i _ hexec => exact exec_secretLocked (s := { s with agenda := agenda }) hp hready hexec

end Sys2Proof.Machine

namespace Sys2Proof.Machine

/-! ### The address map as ranges of offsets (R60, R68, R69) -/

/-- The registers lie below every buffer. -/
theorem regAt_lt {a : Nat} {r : Reg} (h : regAt a = some r) : a < 0x060 := by
  unfold regAt at h
  split at h
  case h_19 => cases h
  all_goals decide

theorem Buf.base_ge (b : Buf) : 0x060 ≤ b.base := by cases b <;> decide

/-- What stands at an offset of the register region, for every parameter. -/
def registerTarget (a : Nat) : Target := (regAt (a / 4 * 4)).elim .unmapped .reg

theorem locate_of_lt {p : Params} {a : Nat} (ha : a < 0x060) : locate p a = registerTarget a := by
  have hbuf : bufAt p a = none := by
    cases hb : bufAt p a with
    | none => rfl
    | some b =>
      have hbase := b.base_ge
      have hlow := (bufAt_some hb).1
      omega
  unfold locate registerTarget
  cases regAt (a / 4 * 4) with
  | some r => rfl
  | none => rw [hbuf]; rfl

/-- Above the register region an offset lies in a buffer, or in none and is unmapped. -/
theorem locate_of_ge (p : Params) {a : Nat} (ha : 0x060 ≤ a) :
    (∃ b : Buf, (b.base ≤ a ∧ a < b.base + b.cap p) ∧ locate p a = .buf b)
      ∨ (∀ b : Buf, ¬ (b.base ≤ a ∧ a < b.base + b.cap p)) ∧ locate p a = .unmapped := by
  have hreg : regAt (a / 4 * 4) = none := by
    cases hr : regAt (a / 4 * 4) with
    | none => rfl
    | some r =>
      have hlow := regAt_lt hr
      omega
  unfold locate
  rw [hreg]
  cases hb : bufAt p a with
  | some b => exact .inl ⟨b, bufAt_some hb, rfl⟩
  | none => exact .inr ⟨fun b h => bufAt_ne_none h hb, rfl⟩

theorem locate_eq_unmapped_iff {p : Params} {a : Nat} : locate p a = .unmapped ↔ ¬ MappedAt p a := by
  rcases Nat.lt_or_ge a 0x060 with ha | ha
  · rw [locate_of_lt ha]
    have hmap : registerTarget a = .unmapped ↔ ¬ (a < 0x01C ∨ (0x020 ≤ a ∧ a < 0x02C) ∨ (0x030 ≤ a ∧ a < 0x050)) := by
      decide +revert
    rw [hmap, MappedAt]
    omega
  · rcases locate_of_ge p ha with ⟨b, hb, hl⟩ | ⟨hb, hl⟩
    · rw [hl, MappedAt, Params.textMax]
      cases b <;> simp at hb ⊢ <;> omega
    · have hcand := hb .cand
      have hcode := hb .code
      have hsecret := hb .secret
      have htext := hb .text
      rw [hl, MappedAt, Params.textMax]
      simp at hcand hcode hsecret htext ⊢
      omega

theorem readOnly_locate_iff {p : Params} (hp : p.Legal) {a : Nat} : readOnly (locate p a) = true ↔ ReadOnlyAt a := by
  obtain ⟨-, hmax, -⟩ := hp
  rcases Nat.lt_or_ge a 0x060 with ha | ha
  · rw [locate_of_lt ha]
    unfold ReadOnlyAt
    decide +revert
  · rcases locate_of_ge p ha with ⟨b, hb, hl⟩ | ⟨hb, hl⟩ <;> rw [hl, ReadOnlyAt]
    · cases b <;> simp [readOnly] at hb ⊢ <;> omega
    · have hcode := hb .code
      simp [readOnly] at hcode ⊢
      omega

theorem secretLocked_locate_iff {p : Params} (hp : p.Legal) {a : Nat} :
    secretLocked (locate p a) = true ↔ LockedAt p a := by
  obtain ⟨-, hmax, -⟩ := hp
  rcases Nat.lt_or_ge a 0x060 with ha | ha
  · rw [locate_of_lt ha]
    have hslen : secretLocked (registerTarget a) = true ↔ 0x040 ≤ a ∧ a < 0x044 := by decide +revert
    rw [hslen, LockedAt]
    omega
  · rcases locate_of_ge p ha with ⟨b, hb, hl⟩ | ⟨hb, hl⟩ <;> rw [hl, LockedAt]
    · cases b <;> simp [secretLocked] at hb ⊢ <;> omega
    · have hsecret := hb .secret
      simp [secretLocked] at hsecret ⊢
      omega

/-- No access outside the register region is served while `BUSY`. -/
theorem busyAllowed_locate_lt {p : Params} {w : Bool} {a : Nat} (h : busyAllowed w (locate p a) = true) : a < 0x060 := by
  by_contra ha
  rcases locate_of_ge p (Nat.le_of_not_lt ha) with ⟨b, -, hl⟩ | ⟨-, hl⟩ <;> rw [hl] at h <;> cases h

theorem busyAllowed_read_locate_iff {p : Params} {a : Nat} :
    busyAllowed false (locate p a) = true ↔ BusyReadableAt a := by
  rcases Nat.lt_or_ge a 0x060 with ha | ha
  · rw [locate_of_lt ha]
    unfold BusyReadableAt
    decide +revert
  · refine ⟨fun h => absurd (busyAllowed_locate_lt h) (by omega), fun h => ?_⟩
    unfold BusyReadableAt at h
    omega

theorem busyAllowed_write_locate_iff {p : Params} {a : Nat} :
    busyAllowed true (locate p a) = true ↔ BusyWritableAt a := by
  rcases Nat.lt_or_ge a 0x060 with ha | ha
  · rw [locate_of_lt ha]
    unfold BusyWritableAt
    decide +revert
  · refine ⟨fun h => absurd (busyAllowed_locate_lt h) (by omega), fun h => ?_⟩
    unfold BusyWritableAt at h
    omega

/-! ### Which accesses are answered (R68, R69): O17, O18 -/

theorem memRead_eq_none_iff {s : State} {a : Offset} {n : Nat} : memRead s a n = none ↔ refused s false a n = true := by
  cases hacc : refused s false a n with
  | true => simp [memRead, hacc]
  | false =>
    obtain ⟨-, -, hmapped, -⟩ := (refused_eq_false s false a n).mp hacc
    cases hl : locate s.par a.toNat with
    | unmapped => exact absurd hl hmapped
    | reg r => simp [memRead, hacc, hl]
    | buf b => simp [memRead, hacc, hl]

/-- Every register but the read-only ones takes a write. -/
theorem regWrite_eq_none_iff {s : State} {v : Word} {t : DWord} {r : Reg} :
    regWrite s v t r = none ↔ readOnly (.reg r) = true := by
  cases r <;> simp [regWrite, readOnly]

theorem memWrite_eq_none_iff {s : State} {a : Offset} {n : Nat} {v : Word} {t : DWord} :
    memWrite s a n v t = none ↔ refused s true a n = true := by
  cases hacc : refused s true a n with
  | true => simp [memWrite, hacc]
  | false =>
    obtain ⟨-, -, hmapped, -, hwritable, -⟩ := (refused_eq_false s true a n).mp hacc
    cases hl : locate s.par a.toNat with
    | unmapped => exact absurd hl hmapped
    | reg r => simpa [memWrite, hacc, hl, regWrite_eq_none_iff] using hwritable
    | buf b => simp [memWrite, hacc, hl]

/-- The tests of `refused` as conditions on the offset; only a write can meet the fourth and the fifth. -/
theorem refused_iff {s : State} (hp : s.par.Legal) (hrst : s.rst = false) (w : Bool) (a : Offset) (n : Nat) :
    refused s w a n = true ↔
      ¬ (n = 1 ∨ n = 2 ∨ n = 4) ∨ a.toNat % n ≠ 0 ∨ ¬ MappedAt s.par a.toNat ∨ (a.toNat < 0x060 ∧ n ≠ 4)
      ∨ (w = true ∧ ReadOnlyAt a.toNat) ∨ (w = true ∧ s.ready = true ∧ LockedAt s.par a.toNat)
      ∨ (s.busy = true ∧ ¬ busyAllowed w (locate s.par a.toNat) = true) := by
  rw [← readOnly_locate_iff hp, ← secretLocked_locate_iff hp, ← locate_eq_unmapped_iff]
  simp [refused, hrst, or_assoc, and_assoc]

/-- Settles O17: the tests of `refused` are the six conditions, read through the ranges of the map. -/
theorem accessRefusedExactlyWhen : Obligations.AccessRefusedExactlyWhen := by
  intro s a n v t hp hrst
  rw [memRead_eq_none_iff, memWrite_eq_none_iff, refused_iff hp hrst, refused_iff hp hrst, busyAllowed_read_locate_iff,
    busyAllowed_write_locate_iff]
  simp

/-- What is served while `BUSY` is mapped, and is neither read-only nor locked where the access is a write. -/
theorem busyAllowed_target {w : Bool} {tgt : Target} (h : busyAllowed w tgt = true) :
    tgt ≠ .unmapped ∧ (w = true → readOnly tgt = false) ∧ (w = true → secretLocked tgt = false) := by
  cases tgt with
  | unmapped => cases h
  | buf b => cases h
  | reg r => cases r <;> simp [busyAllowed, readOnly, secretLocked] at h ⊢ <;> exact h

/-- While `BUSY` the status group decides: its locations pass every other test on the location, and they are all registers. -/
theorem refused_busy_eq_false {s : State} (hb : s.busy = true) (hrst : s.rst = false) (w : Bool) (a : Offset) (n : Nat) :
    refused s w a n = false ↔ n = 4 ∧ a.toNat % 4 = 0 ∧ busyAllowed w (locate s.par a.toNat) = true := by
  rw [refused_eq_false]
  constructor
  · rintro ⟨-, halign, -, hword, -, -, hbusy, -⟩
    obtain rfl := hword (busyAllowed_locate_lt (hbusy hb))
    exact ⟨rfl, halign, hbusy hb⟩
  · rintro ⟨rfl, halign, hbusy⟩
    obtain ⟨hmapped, hro, hlock⟩ := busyAllowed_target hbusy
    exact ⟨.inr (.inr rfl), halign, hmapped, fun _ => rfl, hro, fun hw _ => hlock hw, fun _ => hbusy, hrst⟩

/-- Settles O18: an aligned word at an offset that R69 serves is one of its registers. -/
theorem busyServesOnlyStatusGroup : Obligations.BusyServesOnlyStatusGroup := by
  intro s a n v t hb hrst
  have hread : (memRead s a n).isSome = true ↔ refused s false a n = false := by
    rw [Option.isSome_iff_ne_none, Ne, memRead_eq_none_iff, Bool.not_eq_true]
  have hwrite : (memWrite s a n v t).isSome = true ↔ refused s true a n = false := by
    rw [Option.isSome_iff_ne_none, Ne, memWrite_eq_none_iff, Bool.not_eq_true]
  rw [hread, hwrite, refused_busy_eq_false hb hrst, refused_busy_eq_false hb hrst, busyAllowed_read_locate_iff,
    busyAllowed_write_locate_iff, BusyReadableAt, BusyWritableAt]
  constructor
  · refine and_congr_right fun _ => ?_
    bv_omega
  · refine and_congr_right fun _ => ?_
    bv_omega

end Sys2Proof.Machine

namespace Sys2Proof.Machine

/-! ### The byte lanes of the buffers (R62, R63, R64): O26 -/

/-- Lane `i` as a digit of the word in base 256. -/
theorem lane_eq_ofNat (v : Word) (i : Nat) : lane v i = BitVec.ofNat 8 (v.toNat / 256 ^ i) := by
  refine BitVec.eq_of_toNat_eq ?_
  rw [lane, BitVec.extractLsb'_toNat, BitVec.toNat_ofNat, Nat.shiftRight_eq_div_pow, Nat.pow_mul]

theorem lanes_getD (v : Word) {n i : Nat} (hi : i < n) : (lanes v n).getD i 0#8 = BitVec.ofNat 8 (v.toNat / 256 ^ i) := by
  rw [← lane_eq_ofNat]
  simp [lanes, List.getD, List.getElem?_range hi]

/-- A little-endian fold over `n` bytes is their sum by weight. -/
theorem foldr_bytes_eq_sum (f : Nat → Byte) (n : Nat) :
    ((List.range n).map f).foldr (fun b acc => b.toNat + 256 * acc) 0 = ∑ i ∈ Finset.range n, (f i).toNat * 256 ^ i := by
  induction n generalizing f with
  | zero => rfl
  | succ n ih =>
    rw [List.range_succ_eq_map, List.map_cons, List.map_map, List.foldr_cons, ih, Finset.sum_range_succ', Finset.mul_sum,
      pow_zero, mul_one, add_comm]
    congr 1
    refine Finset.sum_congr rfl fun i _ => ?_
    rw [Function.comp_apply, pow_succ]
    ring

theorem sum_bytes_lt (f : Nat → Byte) (n : Nat) : ∑ i ∈ Finset.range n, (f i).toNat * 256 ^ i < 256 ^ n := by
  induction n with
  | zero => simp
  | succ n ih =>
    have hbyte : (f n).toNat * 256 ^ n ≤ 255 * 256 ^ n := Nat.mul_le_mul_right _ (Nat.le_of_lt_succ (f n).isLt)
    rw [Finset.sum_range_succ, pow_succ]
    omega

/-- At most 4 lanes fit the 32 bits of the data. -/
theorem ofLanes_readBytes_toNat (m : Memory) (a : Nat) {n : Nat} (hn : n ≤ 4) :
    (ofLanes (m.readBytes a n)).toNat = ∑ i ∈ Finset.range n, (m.read (a + i)).toNat * 256 ^ i := by
  have hlt := sum_bytes_lt (fun i => m.read (a + i)) n
  have hle : 256 ^ n ≤ 256 ^ 4 := Nat.pow_le_pow_right (by decide) hn
  rw [ofLanes, Memory.readBytes, foldr_bytes_eq_sum, BitVec.toNat_ofNat]
  exact Nat.mod_eq_of_lt (hlt.trans_le hle)

/-- No register stands at or above `0x060`. -/
theorem locate_ne_reg_of_ge {p : Params} {a : Nat} (ha : 0x060 ≤ a) (r : Reg) : locate p a ≠ .reg r := by
  intro hl
  have hlow := regAt_lt (locate_reg hl)
  omega

/-- An answered read of a buffer gives the bytes from the access's own offset on. -/
theorem memRead_buf {s : State} {a : Offset} {n : Nat} {v : Word} (ha : 0x060 ≤ a.toNat) (h : memRead s a n = some v) :
    refused s false a n = false ∧ v = ofLanes (s.mem.readBytes a.toNat n) := by
  have hacc : refused s false a n = false := by
    rw [← Bool.not_eq_true, ← memRead_eq_none_iff, h]
    exact Option.some_ne_none v
  refine ⟨hacc, ?_⟩
  cases hl : locate s.par a.toNat with
  | reg r => exact absurd hl (locate_ne_reg_of_ge ha r)
  | buf b => simpa [memRead, hacc, hl] using h.symm
  | unmapped => simp [memRead, hacc, hl] at h

/-- Settles O26: an accepted access at or above `0x060` is one of a buffer, and its lanes are digits in base 256. -/
theorem bufferAccessLanes : Obligations.BufferAccessLanes := by
  intro s a n ha
  refine ⟨fun v t s' hw => ?_, fun v hv => ?_⟩
  · obtain ⟨-, ⟨r, hl, -⟩ | ⟨b, -, rfl⟩⟩ := memWrite_cases hw
    · exact absurd hl (locate_ne_reg_of_ge ha r)
    · refine ⟨rfl, fun x hx => ?_, fun i hi => ?_⟩
      · rw [Memory.read_writeBytes, lanes_length, if_neg hx]
      · rw [Memory.read_writeBytes, lanes_length, if_pos (by omega), Nat.add_sub_cancel_left, lanes_getD v hi]
  · obtain ⟨hacc, rfl⟩ := memRead_buf ha hv
    obtain ⟨hn, -⟩ := (refused_eq_false s false a n).mp hacc
    exact ofLanes_readBytes_toNat s.mem a.toNat (by omega)

/-! ### Host accesses while `BUSY` (R69, R76): O28 -/

/-- The only registers that a host may write while `BUSY`. -/
theorem busyAllowed_write_cases {tgt : Target} (h : busyAllowed true tgt = true) :
    ∃ r, tgt = .reg r ∧ (r = .intstat ∨ r = .inten) := by
  cases tgt with
  | unmapped => cases h
  | buf b => cases h
  | reg r => cases r <;> simp [busyAllowed] at h ⊢

/-- A write accepted while `BUSY` is one of `INTSTAT` or `INTEN`. -/
theorem memWrite_busy {s s' : State} {a : Offset} {n : Nat} {v : Word} {t : DWord} (hb : s.busy = true)
    (hw : memWrite s a n v t = some s') : ∃ intstat inten, s' = { s with intstat := intstat, inten := inten } := by
  obtain ⟨hacc, hcase⟩ := memWrite_cases hw
  obtain ⟨-, -, -, -, -, -, hbusy, -⟩ := (refused_eq_false s true a n).mp hacc
  obtain ⟨r, htgt, hstatus⟩ := busyAllowed_write_cases (hbusy hb)
  rcases hcase with ⟨r', hl, hr⟩ | ⟨b, hl, -⟩ <;> rw [htgt] at hl <;> cases hl
  rcases hstatus with rfl | rfl <;> cases hr
  · exact ⟨_, s.inten, rfl⟩
  · exact ⟨s.intstat, _, rfl⟩

/-- A host write while `BUSY`, answered or refused. -/
theorem hostWrite_busy {s : State} (hb : s.busy = true) (a : Offset) (n : Nat) (v : Word) (time : DWord) :
    ∃ intstat inten r, hostWrite s a n v time = { s with intstat := intstat, inten := inten, reply := r } := by
  unfold hostWrite
  cases hw : memWrite s a n v time with
  | none => exact ⟨s.intstat, s.inten, .err, rfl⟩
  | some s' =>
    obtain ⟨intstat, inten, rfl⟩ := memWrite_busy hb hw
    exact ⟨intstat, inten, .written, rfl⟩

/-- Settles O28: a read changes only the reply, and a write accepted while `BUSY` is one of the status group. -/
theorem operandsFrozenWhileBusy : Obligations.OperandsFrozenWhileBusy := by
  intro s t hb hstep hhost
  rcases hhost with ⟨a, n, v, time, hhead⟩ | ⟨a, n, hhead⟩
  · obtain ⟨rest, hagenda⟩ := List.head?_eq_some_iff.mp hhead
    rw [step_cons hagenda] at hstep
    cases hstep
    obtain ⟨intstat, inten, r, hr⟩ := hostWrite_busy (s := { s with agenda := rest }) hb a n v time
    rw [hr]
  · obtain ⟨rest, hagenda⟩ := List.head?_eq_some_iff.mp hhead
    rw [step_cons hagenda] at hstep
    cases hstep
    obtain ⟨r, hr⟩ := hostRead_eq { s with agenda := rest } a n
    rw [hr]

end Sys2Proof.Machine

namespace Sys2Proof.Machine

/-! ### The words of the registers as numbers (R27, R30, R62): O20 -/

/-- A read of a register of the status group is served with any value of `BUSY` (R69). -/
theorem memRead_status_group {s : State} (a : Offset) (r : Reg) (hl : locate s.par a.toNat = .reg r)
    (ha : a.toNat % 4 = 0) (hr : busyAllowed false (.reg r) = true) (hrst : s.rst = false) :
    memRead s a 4 = some (regRead s r) := by
  have hacc : refused s false a 4 = false := by
    rw [refused_eq_false, hl]
    simp [ha, hr, hrst]
  rw [memRead_reg hl, hacc, if_neg Bool.false_ne_true]

theorem setWidth_eq_ofNat {m : Nat} (n : Nat) (x : BitVec m) : x.setWidth n = BitVec.ofNat n x.toNat :=
  BitVec.eq_of_toNat_eq (by rw [BitVec.toNat_setWidth, BitVec.toNat_ofNat])

theorem loWord_eq_ofNat (x : DWord) : loWord x = BitVec.ofNat 32 x.toNat := by
  refine BitVec.eq_of_toNat_eq ?_
  rw [loWord, BitVec.extractLsb'_toNat, BitVec.toNat_ofNat, Nat.shiftRight_zero]

theorem hiWord_eq_ofNat (x : DWord) : hiWord x = BitVec.ofNat 32 (x.toNat / 2 ^ 32) := by
  refine BitVec.eq_of_toNat_eq ?_
  rw [hiWord, BitVec.extractLsb'_toNat, BitVec.toNat_ofNat, Nat.shiftRight_eq_div_pow]

/-- The number of a pair of fields is that of its parts by weight. -/
theorem toNat_append_eq_add {m n : Nat} (x : BitVec m) (y : BitVec n) : (x ++ y).toNat = x.toNat * 2 ^ n + y.toNat := by
  rw [BitVec.toNat_append, ← Nat.shiftLeft_add_eq_or_of_lt y.isLt, Nat.shiftLeft_eq]

theorem statusWord_eq_ofNat (s : State) : statusWord s = BitVec.ofNat 32
    (s.err.toNat * 2 ^ 8 + s.matched.toNat * 2 ^ 2 + s.ready.toNat * 2 + s.busy.toNat) := by
  have hnum : (statusWord s).toNat
      = s.err.toNat * 2 ^ 8 + s.matched.toNat * 2 ^ 2 + s.ready.toNat * 2 + s.busy.toNat := by
    simp only [statusWord, toNat_append_eq_add, BitVec.toNat_ofBool, BitVec.toNat_ofNat]
    omega
  rw [← hnum, BitVec.ofNat_toNat, BitVec.setWidth_eq]

theorem cfgWord_eq_ofNat (s : State) : cfgWord s = BitVec.ofNat 32
    (s.maxwin.toNat * 2 ^ 16 + s.digits.toNat * 2 ^ 8 + (if s.typ = EngineType.totp then 2 ^ 4 else 0)
      + s.alg.code.toNat) := by
  have htyp : (if s.typ = EngineType.totp then 2 ^ 4 else 0) = s.typ.bit.toNat * 2 ^ 4 := by cases s.typ <;> rfl
  have hnum : (cfgWord s).toNat
      = s.maxwin.toNat * 2 ^ 16 + s.digits.toNat * 2 ^ 8 + s.typ.bit.toNat * 2 ^ 4 + s.alg.code.toNat := by
    simp only [cfgWord, toNat_append_eq_add, BitVec.toNat_ofBool, BitVec.toNat_ofNat]
    omega
  rw [htyp, ← hnum, BitVec.ofNat_toNat, BitVec.setWidth_eq]

/-- Settles O20: each read gives `regRead` of its register, whose word is known as a number. -/
theorem registerReadValues : Obligations.RegisterReadValues := by
  intro s hrst
  have hstatus (a : Offset) (r : Reg) (hl : locate s.par a.toNat = .reg r) (ha : a.toNat % 4 = 0)
      (hr : busyAllowed false (.reg r) = true) : memRead s a 4 = some (regRead s r) :=
    memRead_status_group a r hl ha hr hrst
  refine ⟨hstatus 0x000 .id rfl rfl rfl, fun hp => ?_, ?_, ?_, ?_, fun hb => ?_⟩
  · rw [hstatus 0x004 .cap rfl rfl rfl, regRead, capWord_eq_ofNat hp]
  · rw [hstatus 0x00C .status rfl rfl rfl, regRead, statusWord_eq_ofNat]
  · rw [hstatus 0x010 .intstat rfl rfl rfl, regRead, setWidth_eq_ofNat]
  · rw [hstatus 0x014 .inten rfl rfl rfl, regRead, setWidth_eq_ofNat]
  · have hidle (a : Offset) (r : Reg) (hl : locate s.par a.toNat = .reg r) (ha : a.toNat % 4 = 0) :
        memRead s a 4 = some (regRead s r) := memRead_idle a r hl ha hb hrst
    simp only [hidle 0x008 .cmd rfl rfl, hidle 0x018 .cfg rfl rfl, hidle 0x020 .opaLo rfl rfl,
      hidle 0x024 .opaHi rfl rfl, hidle 0x028 .window rfl rfl, hidle 0x030 .stepLo rfl rfl, hidle 0x034 .stepHi rfl rfl,
      hidle 0x038 .seqLo rfl rfl, hidle 0x03C .seqHi rfl rfl, hidle 0x040 .slen rfl rfl, hidle 0x044 .tlen rfl rfl,
      hidle 0x048 .clen rfl rfl, hidle 0x04C .codelen rfl rfl, regRead, cfgWord_eq_ofNat, loWord_eq_ofNat,
      hiWord_eq_ofNat, setWidth_eq_ofNat, and_self]

/-! ### Writes of registers (R63, R70, R71, R288): O22, O27 -/

theorem setLo_eq_ofNat (x : DWord) (v : Word) : setLo x v = BitVec.ofNat 64 (x.toNat / 2 ^ 32 * 2 ^ 32 + v.toNat) := by
  have hhigh : (hiWord x).toNat = x.toNat / 2 ^ 32 := by
    rw [hiWord_eq_ofNat, BitVec.toNat_ofNat]
    omega
  rw [setLo, append_eq_ofNat, hhigh]

theorem setHi_eq_ofNat (x : DWord) (v : Word) : setHi x v = BitVec.ofNat 64 (v.toNat * 2 ^ 32 + x.toNat % 2 ^ 32) := by
  rw [setHi, append_eq_ofNat, loWord_eq_ofNat, BitVec.toNat_ofNat]

/-- `SLEN` is writable by the host in phase EMPTY and locked in phase READY (R70). -/
theorem memWrite_slen {s : State} (a : Offset) (hl : locate s.par a.toNat = .reg .slen) (ha : a.toNat % 4 = 0)
    (hb : s.busy = false) (hrst : s.rst = false) (v : Word) (t : DWord) :
    memWrite s a 4 v t = if s.ready then none else some { s with slen := v.setWidth 16 } := by
  have hacc : refused s true a 4 = s.ready := by simp [refused, hl, ha, readOnly, secretLocked, hb, hrst]
  rw [memWrite_reg hl, hacc, regWrite]

/-- Settles O22: each write is `regWrite` of its register, with the value cut to the register's width. -/
theorem registerWriteEffects : Obligations.RegisterWriteEffects := by
  intro s v t hrst
  refine ⟨?_, fun hb => ?_⟩
  · rw [memWrite_status_group 0x014 .inten rfl rfl (.inr rfl) hrst, regWrite, setWidth_eq_ofNat]
  · have hidle (a : Offset) (r : Reg) (hl : locate s.par a.toNat = .reg r) (ha : a.toNat % 4 = 0)
        (hw : readOnly (.reg r) = false) (hk : secretLocked (.reg r) = false) :
        memWrite s a 4 v t = regWrite s v t r := memWrite_idle a r hl ha hw hk hb hrst v t
    refine ⟨hidle 0x028 .window rfl rfl rfl rfl, ?_, ?_, ?_, ?_, ?_, ?_, fun hready => ?_, fun hready => ?_⟩
    · rw [hidle 0x020 .opaLo rfl rfl rfl rfl, regWrite, setLo_eq_ofNat]
    · rw [hidle 0x024 .opaHi rfl rfl rfl rfl, regWrite, setHi_eq_ofNat]
    · rw [hidle 0x038 .seqLo rfl rfl rfl rfl, regWrite, setLo_eq_ofNat]
    · rw [hidle 0x03C .seqHi rfl rfl rfl rfl, regWrite, setHi_eq_ofNat]
    · rw [hidle 0x044 .tlen rfl rfl rfl rfl, regWrite, setWidth_eq_ofNat]
    · rw [hidle 0x048 .clen rfl rfl rfl rfl, regWrite, setWidth_eq_ofNat]
    · rw [memWrite_slen 0x040 rfl rfl hb hrst, hready, if_neg Bool.false_ne_true, setWidth_eq_ofNat]
    · rw [memWrite_slen 0x040 rfl rfl hb hrst, hready, if_pos rfl]

/-- An accepted write turn has the effect of `memWrite` and leaves the reply (R61, R63). -/
theorem hostWrite_of_some {s s' : State} {a : Offset} {n : Nat} {v : Word} {t : DWord} (h : memWrite s a n v t = some s') :
    hostWrite s a n v t = { s' with reply := .written } := by
  simp only [hostWrite, h]

/-- Settles O27: `CMD` is writable whenever the engine is idle, and its write is `State.issue`. -/
theorem commandIssue : Obligations.CommandIssue := by
  intro s v t rest hagenda hb hrst
  have hwrite : memWrite { s with agenda := rest } 0x008 4 v t = some (State.issue { s with agenda := rest } v t) :=
    memWrite_idle (s := { s with agenda := rest }) 0x008 .cmd rfl rfl rfl rfl hb hrst v t
  rw [step_cons hagenda, takeTurn, hostWrite_of_some hwrite]
  rfl

/-! ### The fetch interface (R71, R262): O6 -/

theorem decode_of_decodeTableWord {nbits w : Nat} {i : Instr} (h : decodeTableWord nbits w = some i) :
    decode (tableWord nbits w) = .ok i := by
  unfold decodeTableWord at h
  split at h
  next j hj => cases h; exact hj
  next => cases h

/-- A word of full width is numbered modulo `2^32` already. -/
theorem tableWord_full_width (w : Nat) : tableWord 32 w = BitVec.ofNat 32 w := by
  refine BitVec.eq_of_toNat_eq ?_
  rw [tableWord, BitVec.toNat_ofNat, BitVec.toNat_ofNat, Nat.mod_mod]

/-- The engine's turn over a word in flight that decodes is the command's execution. -/
theorem engineTurn_of_decode {s : State} {w : Word} {i : Instr} (hb : s.busy = true) (hpending : s.pending = some w)
    (hd : decode w = .ok i) : engineTurn s = exec i s := by
  simp only [engineTurn, State.commandWord, complete, hb, hpending, hd, if_true]

/-- The step after a fetch is the engine's turn over the state with the word latched: the agenda is empty, or its first turn is
the engine's and the rest is what stood there before. -/
theorem step_withFetchWord (s : State) (nbits w : Nat) :
    step (s.withFetchWord nbits w) = engineTurn { s with pending := some (tableWord nbits w), busy := true } := by
  cases hs : s.agenda with
  | nil =>
    have hfetch : s.withFetchWord nbits w = { s with pending := some (tableWord nbits w), busy := true } := by
      simp only [State.withFetchWord, hs]
    rw [hfetch, ← hs]
    exact step_nil hs
  | cons turn rest =>
    have hagenda : (s.withFetchWord nbits w).agenda = .engine :: turn :: rest := by simp only [State.withFetchWord, hs]
    rw [step_cons hagenda, takeTurn, ← hs]
    rfl

/-- Settles O6: the fetched word is the word in flight of the engine's turn that the step takes. -/
theorem fetchedWordRuns : Obligations.FetchedWordRuns := by
  intro s w i hw
  rw [step_withFetchWord, ← tableWord_full_width]
  exact engineTurn_of_decode rfl rfl (decode_of_decodeTableWord hw)

end Sys2Proof.Machine

namespace Sys2Proof

/-! ### A word as its four fields (R90) -/

theorem append_fields (w : Word) : (zeroField w ++ immField w) ++ (flagsField w ++ opField w) = w := by
  simp only [zeroField, immField, flagsField, opField]
  ext i hi
  grind

theorem word_eq_iff_fields {v w : Word} : v = w ↔
    zeroField v = zeroField w ∧ opField v = opField w ∧ flagsField v = flagsField w ∧ immField v = immField w := by
  refine ⟨fun h => h ▸ ⟨rfl, rfl, rfl, rfl⟩, fun ⟨hzero, hop, hflags, himm⟩ => ?_⟩
  rw [← append_fields v, ← append_fields w, hzero, hop, hflags, himm]

theorem encode_eq_iff {i : Instr} {w : Word} : encode i = w ↔
    zeroField w = 0 ∧ opField w = i.opcode ∧ flagsField w = i.flags ∧ immField w = i.imm := by
  obtain ⟨hop, hflags, himm, hzero⟩ := fields_assemble i.opcode i.flags i.imm
  rw [eq_comm, word_eq_iff_fields, encode, hop, hflags, himm, hzero, BitVec.ofNat_eq_ofNat]

/-! ### The `FLAGS` and `IMM` bytes of the operands (R92) -/

theorem flagsOf_and_FE (x : Bool) : flagsOf x false &&& 0xFE = 0 := by cases x <;> rfl

theorem flagsOf_and_FC (x y : Bool) : flagsOf x y &&& 0xFC = 0 := by cases x <;> cases y <;> rfl

theorem flagsOf_bit0 (x y : Bool) : (flagsOf x y).getLsbD 0 = x := by cases x <;> cases y <;> rfl

theorem flagsOf_bit1 (x y : Bool) : (flagsOf x y).getLsbD 1 = y := by cases x <;> cases y <;> rfl

/-- A byte with no bit above bit 1 is the `FLAGS` byte of its two low bits. -/
theorem flagsOf_of_and_FC {f : Byte} (h : f &&& 0xFC = 0) : flagsOf (f.getLsbD 0) (f.getLsbD 1) = f := by
  decide +revert

/-- A byte with no bit above bit 0 is the `FLAGS` byte of that bit. -/
theorem flagsOf_of_and_FE {f : Byte} (h : f &&& 0xFE = 0) : flagsOf (f.getLsbD 0) false = f := by
  decide +revert

theorem nibble_and_F0 (d : BitVec 4) : d.setWidth 8 &&& 0xF0 = 0 := by decide +revert

theorem nibble_extract (d : BitVec 4) : (d.setWidth 8).extractLsb' 0 4 = d := by decide +revert

theorem nibble_of_and_F0 {m : Byte} (h : m &&& 0xF0 = 0) : (m.extractLsb' 0 4).setWidth 8 = m := by decide +revert

theorem twoBits_and_FC (c : BitVec 2) : c.setWidth 8 &&& 0xFC = 0 := by decide +revert

theorem twoBits_extract (c : BitVec 2) : (c.setWidth 8).extractLsb' 0 2 = c := by decide +revert

theorem twoBits_of_and_FC {m : Byte} (h : m &&& 0xFC = 0) : (m.extractLsb' 0 2).setWidth 8 = m := by decide +revert

theorem EngineType.ofBit_bit (t : EngineType) : ofBit t.bit = t := by cases t <;> rfl

theorem EngineType.bit_ofBit (b : Bool) : (ofBit b).bit = b := by cases b <;> rfl

theorem Alg.ofCode_eq_some_iff {c : BitVec 2} {a : Alg} : ofCode c = some a ↔ c = a.code := by
  cases a <;> decide +revert

theorem Alg.exists_ofCode_iff (c : BitVec 2) : (∃ a, ofCode c = some a) ↔ c.toNat ≤ 2 := by
  rw [← Option.isSome_iff_exists]
  decide +revert

/-! ### What each format of the decoder accepts (R91, R92, R95) -/

section
variable {c : Prop} [Decidable c] {e : DecodeError} {i j : Instr} {f m : Byte}

theorem ite_error_eq_ok_iff {x : Except DecodeError Instr} : (if c then .error e else x) = .ok i ↔ ¬ c ∧ x = .ok i := by
  split_ifs with h <;> simp [h]

theorem ite_ok_eq_ok_iff : (if c then .ok j else .error e) = (.ok i : Except DecodeError Instr) ↔ c ∧ j = i := by
  split_ifs with h <;> simp [h]

theorem decodeN_eq_ok_iff : decodeN j f m = .ok i ↔ f = 0 ∧ m = 0 ∧ j = i := by
  simp only [decodeN, ite_error_eq_ok_iff, not_not, Except.ok.injEq]

theorem decodeInit_eq_ok_iff : decodeInit f m = .ok i ↔ f &&& 0xFE = 0 ∧ m &&& 0xF0 = 0
    ∧ digitsLegal (m.extractLsb' 0 4) = true ∧ .init (.ofBit (f.getLsbD 0)) (m.extractLsb' 0 4) = i := by
  simp only [decodeInit, ite_error_eq_ok_iff, ite_ok_eq_ok_iff, not_not]

theorem decodeSetalg_eq_ok_iff : decodeSetalg f m = .ok i ↔
    f = 0 ∧ m &&& 0xFC = 0 ∧ ∃ a, Alg.ofCode (m.extractLsb' 0 2) = some a ∧ .setalg a = i := by
  simp only [decodeSetalg, ite_error_eq_ok_iff, not_not]
  cases Alg.ofCode (m.extractLsb' 0 2) <;> simp

theorem decodeSetmaxw_eq_ok_iff : decodeSetmaxw f m = .ok i ↔ f = 0 ∧ m ≠ 0 ∧ .setmaxw m = i := by
  simp only [decodeSetmaxw, ite_error_eq_ok_iff, not_not, Except.ok.injEq, ne_eq]

theorem decodeGen_eq_ok_iff : decodeGen f m = .ok i ↔ f &&& 0xFE = 0 ∧ m = 0 ∧ .gen (f.getLsbD 0) = i := by
  simp only [decodeGen, ite_error_eq_ok_iff, not_not, Except.ok.injEq]

theorem decodeVerify_eq_ok_iff : decodeVerify f m = .ok i ↔
    f &&& 0xFC = 0 ∧ m = 0 ∧ .verify (f.getLsbD 0) (f.getLsbD 1) = i := by
  simp only [decodeVerify, ite_error_eq_ok_iff, not_not, Except.ok.injEq]

theorem decodeB32enc_eq_ok_iff : decodeB32enc f m = .ok i ↔ f &&& 0xFC = 0 ∧ m = 0
    ∧ (!(f.getLsbD 0 && f.getLsbD 1)) = true ∧ .b32enc (f.getLsbD 0) (f.getLsbD 1) = i := by
  simp only [decodeB32enc, ite_error_eq_ok_iff, not_not, Except.ok.injEq, Bool.not_eq_true, Bool.not_eq_true']

theorem decode_eq_ok_iff {w : Word} : decode w = .ok i ↔
    zeroField w = 0 ∧ decodeOp (opField w) (flagsField w) (immField w) = .ok i := by
  simp only [decode, ite_error_eq_ok_iff, not_not]

end

/-- What the decoder accepts under an opcode has that opcode and the two bytes as its own. -/
theorem decodeOp_ok {op f m : Byte} {i : Instr} (h : decodeOp op f m = .ok i) :
    i.wf = true ∧ op = i.opcode ∧ f = i.flags ∧ m = i.imm := by
  unfold decodeOp at h
  split_ifs at h with hop hop hop hop hop hop hop hop hop
  · obtain ⟨hf, hm, hd, rfl⟩ := decodeInit_eq_ok_iff.mp h
    exact ⟨hd, hop, by rw [Instr.flags, EngineType.bit_ofBit, flagsOf_of_and_FE hf], (nibble_of_and_F0 hm).symm⟩
  · obtain ⟨hf, hm, rfl⟩ := decodeN_eq_ok_iff.mp h
    exact ⟨rfl, hop, hf, hm⟩
  · obtain ⟨hf, hm, a, ha, rfl⟩ := decodeSetalg_eq_ok_iff.mp h
    refine ⟨rfl, hop, hf, ?_⟩
    rw [Instr.imm, ← Alg.ofCode_eq_some_iff.mp ha, twoBits_of_and_FC hm]
  · obtain ⟨hf, hm, rfl⟩ := decodeN_eq_ok_iff.mp h
    exact ⟨rfl, hop, hf, hm⟩
  · obtain ⟨hf, hm, rfl⟩ := decodeSetmaxw_eq_ok_iff.mp h
    exact ⟨by simp [Instr.wf]; bv_omega, hop, hf, rfl⟩
  · obtain ⟨hf, hm, rfl⟩ := decodeGen_eq_ok_iff.mp h
    exact ⟨rfl, hop, (flagsOf_of_and_FE hf).symm, hm⟩
  · obtain ⟨hf, hm, rfl⟩ := decodeVerify_eq_ok_iff.mp h
    exact ⟨rfl, hop, (flagsOf_of_and_FC hf).symm, hm⟩
  · obtain ⟨hf, hm, hpg, rfl⟩ := decodeB32enc_eq_ok_iff.mp h
    exact ⟨hpg, hop, (flagsOf_of_and_FC hf).symm, hm⟩
  · obtain ⟨hf, hm, rfl⟩ := decodeN_eq_ok_iff.mp h
    exact ⟨rfl, hop, hf, hm⟩

/-- The opcode map sends each opcode to its own format, which accepts the bytes of a well-formed command. -/
theorem decodeOp_of_wf {i : Instr} (h : i.wf = true) : decodeOp i.opcode i.flags i.imm = .ok i := by
  cases i with
  | init t d =>
    refine decodeInit_eq_ok_iff.mpr ⟨flagsOf_and_FE _, nibble_and_F0 d, ?_, ?_⟩
    · rw [Instr.imm, nibble_extract]
      exact h
    · rw [Instr.flags, Instr.imm, flagsOf_bit0, EngineType.ofBit_bit, nibble_extract]
  | clear | setstep | b32dec => rfl
  | setalg a =>
    exact decodeSetalg_eq_ok_iff.mpr ⟨rfl, twoBits_and_FC _, a, Alg.ofCode_eq_some_iff.mpr (twoBits_extract _), rfl⟩
  | setmaxw n =>
    have hn : n ≠ 0 := by
      rintro rfl
      exact absurd h (by decide)
    exact decodeSetmaxw_eq_ok_iff.mpr ⟨rfl, hn, rfl⟩
  | gen d => exact decodeGen_eq_ok_iff.mpr ⟨flagsOf_and_FE d, rfl, by rw [Instr.flags, flagsOf_bit0]⟩
  | verify d wd =>
    exact decodeVerify_eq_ok_iff.mpr ⟨flagsOf_and_FC d wd, rfl, by rw [Instr.flags, flagsOf_bit0, flagsOf_bit1]⟩
  | b32enc p g =>
    refine decodeB32enc_eq_ok_iff.mpr ⟨flagsOf_and_FC p g, rfl, ?_, ?_⟩ <;> rw [Instr.flags, flagsOf_bit0, flagsOf_bit1]
    exact h

/-- The decoder is the inverse of the encoder on the well-formed commands. -/
theorem decode_eq_ok_iff_encode {w : Word} {i : Instr} : decode w = .ok i ↔ i.wf = true ∧ encode i = w := by
  rw [decode_eq_ok_iff, encode_eq_iff]
  constructor
  · rintro ⟨hzero, hd⟩
    obtain ⟨hwf, hop, hflags, himm⟩ := decodeOp_ok hd
    exact ⟨hwf, hzero, hop, hflags, himm⟩
  · rintro ⟨hwf, hzero, hop, hflags, himm⟩
    rw [hop, hflags, himm]
    exact ⟨hzero, decodeOp_of_wf hwf⟩

/-- Settles O1: the word of a well-formed command is the word that `decode_eq_ok_iff_encode` asks for. -/
theorem decodeOfEncode : Obligations.DecodeOfEncode :=
  fun _ hwf => decode_eq_ok_iff_encode.mpr ⟨hwf, rfl⟩

/-- Settles O2, by the other direction of `decode_eq_ok_iff_encode`. -/
theorem encodeOfDecode : Obligations.EncodeOfDecode :=
  fun _ _ h => decode_eq_ok_iff_encode.mp h

/-! ### The rows of the opcode table field by field (R95): O3 -/

theorem word_and_eq_iff_fields {w m p : Word} : w &&& m = p ↔
    zeroField w &&& zeroField m = zeroField p ∧ opField w &&& opField m = opField p
      ∧ flagsField w &&& flagsField m = flagsField p ∧ immField w &&& immField m = immField p := by
  simp only [word_eq_iff_fields, zeroField, opField, flagsField, immField, BitVec.extractLsb'_and]

/-- The mask of a row whose variable bits are those outside `fm` in `FLAGS` and outside `im` in `IMM`. -/
def rowMask (fm im : Byte) : Word := (0xFF#8 ++ im) ++ (fm ++ 0xFF#8)

theorem fields_rowMask (fm im : Byte) : zeroField (rowMask fm im) = 0xFF ∧ opField (rowMask fm im) = 0xFF
    ∧ flagsField (rowMask fm im) = fm ∧ immField (rowMask fm im) = im := by
  simp only [zeroField, opField, flagsField, immField, rowMask]
  refine ⟨?_, ?_, ?_, ?_⟩ <;> (ext i hi; grind)

theorem byte_and_FF (b : Byte) : b &&& 0xFF = b := BitVec.and_allOnes

/-- A row fixes `ZERO` and `OP`, the masked bits of `FLAGS` and `IMM` are 0, and its condition holds. -/
theorem TableRow.accepts_iff {r : TableRow} {op fm im : Byte} (hpat : r.pat = assemble op 0 0) (hmask : r.mask = rowMask fm im)
    (w : Word) : r.accepts w = true ↔ zeroField w = 0 ∧ opField w = op ∧ flagsField w &&& fm = 0 ∧ immField w &&& im = 0
      ∧ r.cond w = true := by
  obtain ⟨hop, hflags, himm, hzero⟩ := fields_assemble op 0 0
  obtain ⟨hzero', hop', hflags', himm'⟩ := fields_rowMask fm im
  rw [TableRow.accepts, Bool.and_eq_true, decide_eq_true_iff, hpat, hmask, word_and_eq_iff_fields, hop, hflags, himm, hzero,
    hop', hflags', himm', hzero', byte_and_FF, byte_and_FF]
  simp only [and_assoc, BitVec.ofNat_eq_ofNat]

theorem extractLsb'_immField (w : Word) {n : Nat} (hn : n ≤ 8) : w.extractLsb' 16 n = (immField w).extractLsb' 0 n := by
  rw [immField]
  ext i hi
  grind

theorem getLsbD_flagsField (w : Word) {k : Nat} (hk : k < 8) : w.getLsbD (8 + k) = (flagsField w).getLsbD k := by
  rw [flagsField, BitVec.getLsbD_extractLsb', decide_eq_true hk, Bool.true_and]

/-- The row accepts the words with the opcode `op` that decode, and those decode to commands of its mnemonic. -/
def TableRow.Reads (r : TableRow) (op : Byte) : Prop := ∀ w : Word,
  r.accepts w = true ↔ opField w = op ∧ ∃ i, decode w = .ok i ∧ i.mnemonic = r.mnemonic

/-- It is enough that the format under the opcode makes the row's tests on `FLAGS` and `IMM`. -/
theorem TableRow.reads_of_format {r : TableRow} {op fm im : Byte} (hpat : r.pat = assemble op 0 0)
    (hmask : r.mask = rowMask fm im)
    (hformat : ∀ w, (flagsField w &&& fm = 0 ∧ immField w &&& im = 0 ∧ r.cond w = true)
      ↔ ∃ i, decodeOp op (flagsField w) (immField w) = .ok i ∧ i.mnemonic = r.mnemonic) : r.Reads op := by
  intro w
  rw [TableRow.accepts_iff hpat hmask, hformat]
  simp only [decode_eq_ok_iff]
  constructor
  · rintro ⟨hzero, rfl, i, hd, hmn⟩
    exact ⟨rfl, i, ⟨hzero, hd⟩, hmn⟩
  · rintro ⟨rfl, i, ⟨hzero, hd⟩, hmn⟩
    exact ⟨hzero, rfl, i, hd, hmn⟩

/-- The rows of format `N`: no variable bit and no condition. -/
theorem decodeN_row (j : Instr) (f m : Byte) :
    (f &&& 0xFF = 0 ∧ m &&& 0xFF = 0 ∧ true = true) ↔ ∃ i, decodeN j f m = .ok i ∧ i.mnemonic = j.mnemonic := by
  simp only [decodeN_eq_ok_iff, byte_and_FF, and_true, and_assoc, exists_and_left, exists_eq_left']

theorem reads_init : opcodeTable[0].Reads 0x01 :=
  TableRow.reads_of_format (fm := 0xFE) (im := 0xF0) rfl rfl fun w => by
    show _ ∧ _ ∧ digitsLegal (w.extractLsb' 16 4) = true ↔ ∃ i, decodeInit _ _ = .ok i ∧ i.mnemonic = "INIT"
    simp only [decodeInit_eq_ok_iff, extractLsb'_immField w (n := 4) (by decide), and_assoc, exists_and_left,
      exists_eq_left', Instr.mnemonic, and_true]

theorem reads_clear : opcodeTable[1].Reads 0x02 :=
  TableRow.reads_of_format rfl rfl fun _ => decodeN_row .clear _ _

theorem reads_setalg : opcodeTable[2].Reads 0x03 :=
  TableRow.reads_of_format (fm := 0xFF) (im := 0xFC) rfl rfl fun w => by
    show _ ∧ _ ∧ decide ((w.extractLsb' 16 2).toNat ≤ 2) = true
      ↔ ∃ i, decodeSetalg _ _ = .ok i ∧ i.mnemonic = "SETALG"
    rw [extractLsb'_immField w (by decide), decide_eq_true_iff, ← Alg.exists_ofCode_iff, byte_and_FF]
    constructor
    · rintro ⟨hf, hm, a, ha⟩
      exact ⟨.setalg a, decodeSetalg_eq_ok_iff.mpr ⟨hf, hm, a, ha, rfl⟩, rfl⟩
    · rintro ⟨i, hd, -⟩
      obtain ⟨hf, hm, a, ha, -⟩ := decodeSetalg_eq_ok_iff.mp hd
      exact ⟨hf, hm, a, ha⟩

theorem reads_setstep : opcodeTable[3].Reads 0x04 :=
  TableRow.reads_of_format rfl rfl fun _ => decodeN_row .setstep _ _

theorem reads_setmaxw : opcodeTable[4].Reads 0x05 :=
  TableRow.reads_of_format (fm := 0xFF) (im := 0x00) rfl rfl fun w => by
    show _ ∧ _ ∧ decide (1 ≤ (immField w).toNat) = true ↔ ∃ i, decodeSetmaxw _ _ = .ok i ∧ i.mnemonic = "SETMAXW"
    have hne : 1 ≤ (immField w).toNat ↔ immField w ≠ 0 := by
      generalize immField w = m
      bv_omega
    have hfree : immField w &&& 0 = 0 := BitVec.and_zero
    simp only [decodeSetmaxw_eq_ok_iff, byte_and_FF, hfree, true_and, decide_eq_true_iff, hne, and_assoc, exists_and_left,
      exists_eq_left', Instr.mnemonic, and_true]

theorem reads_gen : opcodeTable[5].Reads 0x10 :=
  TableRow.reads_of_format (fm := 0xFE) (im := 0xFF) rfl rfl fun w => by
    show _ ∧ _ ∧ true = true ↔ ∃ i, decodeGen _ _ = .ok i ∧ i.mnemonic = "GEN"
    simp only [decodeGen_eq_ok_iff, byte_and_FF, and_assoc, exists_and_left, exists_eq_left', Instr.mnemonic, and_true]

theorem reads_verify : opcodeTable[6].Reads 0x11 :=
  TableRow.reads_of_format (fm := 0xFC) (im := 0xFF) rfl rfl fun w => by
    show _ ∧ _ ∧ true = true ↔ ∃ i, decodeVerify _ _ = .ok i ∧ i.mnemonic = "VERIFY"
    simp only [decodeVerify_eq_ok_iff, byte_and_FF, and_assoc, exists_and_left, exists_eq_left', Instr.mnemonic, and_true]

theorem reads_b32enc : opcodeTable[7].Reads 0x20 :=
  TableRow.reads_of_format (fm := 0xFC) (im := 0xFF) rfl rfl fun w => by
    show _ ∧ _ ∧ (!(w.getLsbD (8 + 0) && w.getLsbD (8 + 1))) = true
      ↔ ∃ i, decodeB32enc _ _ = .ok i ∧ i.mnemonic = "B32ENC"
    rw [getLsbD_flagsField w (by decide), getLsbD_flagsField w (by decide)]
    simp only [decodeB32enc_eq_ok_iff, byte_and_FF, and_assoc, exists_and_left, exists_eq_left', Instr.mnemonic, and_true]

theorem reads_b32dec : opcodeTable[8].Reads 0x21 :=
  TableRow.reads_of_format rfl rfl fun _ => decodeN_row .b32dec _ _

/-- Every row of the table reads the words of one opcode. -/
theorem exists_reads_of_mem : ∀ r ∈ opcodeTable, ∃ op, r.Reads op := by
  simp only [opcodeTable, List.forall_mem_cons]
  exact ⟨⟨_, reads_init⟩, ⟨_, reads_clear⟩, ⟨_, reads_setalg⟩, ⟨_, reads_setstep⟩, ⟨_, reads_setmaxw⟩, ⟨_, reads_gen⟩,
    ⟨_, reads_verify⟩, ⟨_, reads_b32enc⟩, ⟨_, reads_b32dec⟩, List.forall_mem_nil _⟩

/-- Every command has a row of its own opcode and mnemonic. -/
theorem Instr.exists_row (i : Instr) : ∃ r ∈ opcodeTable, r.Reads i.opcode ∧ i.mnemonic = r.mnemonic := by
  cases i with
  | init => exact ⟨_, List.getElem_mem _, reads_init, rfl⟩
  | clear => exact ⟨_, List.getElem_mem _, reads_clear, rfl⟩
  | setalg => exact ⟨_, List.getElem_mem _, reads_setalg, rfl⟩
  | setstep => exact ⟨_, List.getElem_mem _, reads_setstep, rfl⟩
  | setmaxw => exact ⟨_, List.getElem_mem _, reads_setmaxw, rfl⟩
  | gen => exact ⟨_, List.getElem_mem _, reads_gen, rfl⟩
  | verify => exact ⟨_, List.getElem_mem _, reads_verify, rfl⟩
  | b32enc => exact ⟨_, List.getElem_mem _, reads_b32enc, rfl⟩
  | b32dec => exact ⟨_, List.getElem_mem _, reads_b32dec, rfl⟩

/-- Settles O3: the words a row accepts decode by `exists_reads_of_mem`, and `Instr.exists_row` accepts a word that decodes. -/
theorem decodeFollowsOpcodeTable : Obligations.DecodeFollowsOpcodeTable := by
  intro w
  refine ⟨fun r hr hacc => ?_, fun ⟨i, hd⟩ => ?_⟩
  · obtain ⟨op, hreads⟩ := exists_reads_of_mem r hr
    exact ((hreads w).mp hacc).2
  · obtain ⟨r, hr, hreads, hmn⟩ := i.exists_row
    obtain ⟨-, hop, -⟩ := encode_eq_iff.mp (decode_eq_ok_iff_encode.mp hd).2
    exact ⟨r, hr, (hreads w).mpr ⟨hop, i, hd, hmn⟩⟩

/-! ### Words of the assembler table (R96, R98): O4 -/

/-- Settles O4: each legal word is the encoding of its command; the two illegal words fail the tests on `OP` and `ZERO`. -/
theorem specWordsDecode : Obligations.SpecWordsDecode := by
  simp only [Obligations.SpecWordsDecode, decode_eq_ok_iff_encode]
  refine ⟨?_, ?_, ?_, ?_, ?_, ?_, ?_, ?_, ?_, ?_, ⟨.unknownOp, rfl⟩, ⟨.zeroField, rfl⟩⟩
  all_goals exact ⟨rfl, rfl⟩

end Sys2Proof

namespace Sys2Proof.Machine

/-! ### Progress (R101, R265): O11 -/

/-- The engine's turn stops only where `BUSY` stands without a pending word, which R48 excludes. -/
theorem engineTurn_next {s : State} (h : s.busy = s.pending.isSome) : ∃ t, engineTurn s = .next t := by
  rcases engineTurn_cases s with ⟨-, he⟩ | ⟨hbusy, hpending, -⟩ | ⟨-, -, -, -, -, he⟩ | ⟨-, i, -, -, -, he⟩
  · exact ⟨s, he⟩
  · rw [hbusy, hpending] at h
    exact absurd h (by decide)
  · exact ⟨_, he⟩
  · rw [he]
    rcases exec_completes i s with ⟨_, -, -, ht⟩ | ⟨_, ht, -⟩ <;> exact ⟨_, ht⟩

/-- Settles O11: a host turn and a change of the reset input always give a next state, the engine's turn by `engineTurn_next`. -/
theorem stepNeverStops : Obligations.StepNeverStops := by
  intro s hs
  cases hagenda : s.agenda with
  | nil =>
    rw [step_nil hagenda]
    exact engineTurn_next hs.busy_pending
  | cons turn rest =>
    rw [step_cons hagenda]
    cases turn with
    | engine => exact engineTurn_next (s := { s with agenda := rest }) hs.busy_pending
    | read | write | rst => exact ⟨_, rfl⟩

end Sys2Proof.Machine

namespace Sys2Proof.Machine

/-! ### Normalisation and rejection (R117, R118): O46 -/

/-- Step 1 of R117 removes the trailing run of `=` and nothing before it. -/
theorem stripPad_append_pad {body : Bytes} (hlast : body.getLast? ≠ some padChar) (n : Nat) :
    stripPad (body ++ List.replicate n padChar) = body := by
  have hpads : ∀ c ∈ List.replicate n padChar, (c == padChar) = true := fun c hc => by
    rw [List.eq_of_mem_replicate hc, beq_self_eq_true]
  rw [stripPad, List.reverse_append, List.reverse_replicate, List.dropWhile_append_of_pos hpads]
  cases body using List.reverseRecOn with
  | nil => rfl
  | append_singleton init c =>
    have hc : ¬ (c == padChar) = true := by simpa using hlast
    rw [List.reverse_concat, List.dropWhile_cons_of_neg (p := (· == padChar)) hc, ← List.reverse_concat, List.reverse_reverse]

/-- Steps 2 to 4 of R117 take each byte on its own. -/
theorem b32Normalise_eq_flatMap (t : Bytes) :
    b32Normalise t = (stripPad t).flatMap fun c => [unambiguous (upperCase c)].filter (· != spaceChar) := by
  rw [b32Normalise, List.map_map]
  induction stripPad t with
  | nil => rfl
  | cons c u ih => rw [List.map_cons, List.flatMap_cons, ← ih, ← List.filter_append]; rfl

/-- What steps 2 to 4 of R117 make of one byte. -/
theorem normalised_byte (c : Byte) : [unambiguous (upperCase c)].filter (· != spaceChar)
    = if c = 0x20 then [] else if 0x61 ≤ c.toNat ∧ c.toNat ≤ 0x7A then [c - 0x20]
      else if c = 0x30 then [0x4F] else if c = 0x31 then [0x49] else [c] := by
  decide +revert

theorem b32Decode_eq_none_iff {t : Bytes} : b32Decode t = none ↔ ¬ (b32Normalise t).all inAlphabet = true := by
  simp [b32Decode]

theorem inAlphabet_iff {c : Byte} :
    inAlphabet c = true ↔ (0x41 ≤ c.toNat ∧ c.toNat ≤ 0x5A) ∨ (0x32 ≤ c.toNat ∧ c.toNat ≤ 0x37) := by
  rw [inAlphabet, Bool.or_eq_true, decide_eq_true_iff, decide_eq_true_iff]

/-- Settles O46: without its trailing run of `=` a text is normalised byte by byte, and decoding tests every byte of the result. -/
theorem decodeRejectsExactlyNonAlphabet : Obligations.DecodeRejectsExactlyNonAlphabet := by
  refine ⟨fun body n hlast => ?_, fun t => ?_⟩
  · simp only [← normalised_byte]
    have hstrip : stripPad (body ++ List.replicate n 0x3D) = body := stripPad_append_pad hlast n
    rw [b32Normalise_eq_flatMap, hstrip]
  · simp only [b32Decode_eq_none_iff, List.all_eq_true, not_forall, exists_prop, inAlphabet_iff]

/-! ### The lengths of the output forms (R113, R114, R115): O45 -/

/-- Settles O45: rounding the characters of R113 up to a multiple of 8 rounds the bytes up to a multiple of 5. -/
theorem encodedLengths : Obligations.EncodedLengths := by
  intro b
  refine ⟨b32Chars_length b, ?_, ?_⟩
  · rw [b32Encode, padText_length, b32Chars_length, charCount]
    omega
  · rw [b32Encode, b32Encode, groupText_length, b32Chars_length, charCount]
    omega

/-- Every form of the text of a full `SECRET` fits `TEXT` (R6, R123). -/
theorem b32Encode_length_le (form : TextForm) (b : Bytes) : (b32Encode form b).length ≤ 2 * b.length + 8 := by
  obtain ⟨hplain, hpadded, hgrouped⟩ := encodedLengths b
  cases form <;> omega

/-! ### The round trip (R120): O44 -/

/-- The bytes of an encoding without its padding: alphabet characters and the spaces of grouping. -/
def EncodedByte (c : Byte) : Prop := c = spaceChar ∨ ∃ v < 32, c = alpha v

theorem EncodedByte.ne_pad {c : Byte} (h : EncodedByte c) : c ≠ padChar := by
  rcases h with rfl | ⟨v, hv, rfl⟩
  · decide
  · obtain ⟨-, -, hpad, -⟩ := alpha_facts v hv
    exact hpad

theorem EncodedByte.normalised {c : Byte} (h : EncodedByte c) : unambiguous (upperCase c) = c := by
  rcases h with rfl | ⟨v, hv, rfl⟩
  · decide
  · obtain ⟨-, -, -, -, hupper, hunamb⟩ := alpha_facts v hv
    rw [hupper, hunamb]

/-- Normalisation takes from an encoding its padding and its spaces, and changes no other byte. -/
theorem b32Normalise_encoded {body : Bytes} (hbody : ∀ c ∈ body, EncodedByte c) (n : Nat) :
    b32Normalise (body ++ List.replicate n padChar) = body.filter (· != spaceChar) := by
  have hlast : body.getLast? ≠ some padChar := fun h => (hbody _ (List.mem_of_getLast? h)).ne_pad rfl
  have hkept : (body.map upperCase).map unambiguous = body := by
    rw [List.map_map]
    exact (List.map_congr_left fun c hc => (hbody c hc).normalised).trans (List.map_id body)
  rw [b32Normalise, stripPad_append_pad hlast, hkept]

/-- Grouping adds nothing but spaces. -/
theorem mem_groupText {t : Bytes} {c : Byte} (hc : c ∈ groupText t) : c = spaceChar ∨ c ∈ t := by
  rcases eq_or_ne c spaceChar with hspace | hspace
  · exact .inl hspace
  · have hkept : c ∈ (groupText t).filter (· != spaceChar) := List.mem_filter.mpr ⟨hc, bne_iff_ne.mpr hspace⟩
    rw [groupText_filter] at hkept
    exact .inr (List.mem_filter.mp hkept).1

theorem b32Chars_filter (b : Bytes) : (b32Chars b).filter (· != spaceChar) = b32Chars b := by
  refine List.filter_eq_self.mpr fun c hc => ?_
  obtain ⟨v, hv, rfl⟩ := b32Chars_alpha b c hc
  obtain ⟨-, -, -, hspace, -⟩ := alpha_facts v hv
  exact bne_iff_ne.mpr hspace

/-- Normalisation takes each output form back to the characters of R112. -/
theorem b32Normalise_b32Encode (form : TextForm) (b : Bytes) : b32Normalise (b32Encode form b) = b32Chars b := by
  have hchars : ∀ c ∈ b32Chars b, EncodedByte c := fun c hc => .inr (b32Chars_alpha b c hc)
  have hgrouped : ∀ c ∈ groupText (b32Chars b), EncodedByte c := fun c hc => (mem_groupText hc).elim .inl (hchars c)
  cases form with
  | plain => simpa [b32Encode, b32Chars_filter] using b32Normalise_encoded hchars 0
  | padded => rw [b32Encode, padText, b32Normalise_encoded hchars, b32Chars_filter]
  | grouped => simpa [b32Encode, groupText_filter, b32Chars_filter] using b32Normalise_encoded hgrouped 0

/-- The characters of R112 are the base 32 digits of the bytes, extended by zero bits to a multiple of 5. -/
theorem textInt_b32Chars (b : Bytes) :
    textInt (b32Chars b) = beInt b * 2 ^ (5 * charCount b.length - 8 * b.length) := by
  have hval (n : Nat) : val (alpha (n % 32)) = n % 32 := (alpha_facts _ (Nat.mod_lt _ (by decide))).2.1
  have hcount : 8 * b.length ≤ 5 * charCount b.length := by rw [charCount]; omega
  have hlt : beInt b * 2 ^ (5 * charCount b.length - 8 * b.length) < 32 ^ charCount b.length := calc
    _ < 256 ^ b.length * 2 ^ (5 * charCount b.length - 8 * b.length) :=
      Nat.mul_lt_mul_of_pos_right (beInt_lt b) (Nat.two_pow_pos _)
    _ = 2 ^ (5 * charCount b.length) := by
      rw [show 256 = 2 ^ 8 from rfl, ← Nat.pow_mul, ← Nat.pow_add, Nat.add_sub_cancel' hcount]
    _ = 32 ^ charCount b.length := by rw [Nat.pow_mul]
  rw [← Nat.mod_eq_of_lt hlt, ← foldl_digits, textInt, b32Chars, List.foldl_map, List.foldl_map]
  simp only [hval]

/-- The trailing bits that R119 discards are those that R112 added. -/
theorem textBytes_b32Chars (b : Bytes) : textBytes (b32Chars b) = b := by
  have hbytes : 5 * charCount b.length / 8 = b.length := by rw [charCount]; omega
  rw [textBytes, b32Chars_length, hbytes, textInt_b32Chars, Nat.mul_div_cancel _ (Nat.two_pow_pos _), beBytes_beInt]

/-- The round trip in whichever form. -/
theorem b32Decode_b32Encode (form : TextForm) (b : Bytes) : b32Decode (b32Encode form b) = some b := by
  have hall : (b32Chars b).all inAlphabet = true := List.all_eq_true.mpr fun c hc => by
    obtain ⟨v, hv, rfl⟩ := b32Chars_alpha b c hc
    exact (alpha_facts v hv).1
  rw [b32Decode, b32Normalise_b32Encode, if_pos hall, textBytes_b32Chars]

/-- Settles O44, form by form. -/
theorem base32RoundTrip : Obligations.Base32RoundTrip := fun b =>
  ⟨b32Decode_b32Encode .plain b, b32Decode_b32Encode .padded b, b32Decode_b32Encode .grouped b⟩

/-! ### `B32ENC` (R123): O40 -/

/-- The bytes of a buffer that has been filled. -/
theorem State.read_fillBuf_at (s : State) (b : Buf) (bs : Bytes) {j : Nat} (hj : j < b.cap s.par) :
    (s.fillBuf b bs).mem.read (b.base + j) = bs.getD j 0#8 := by
  rw [State.read_fillBuf, if_pos ⟨Nat.le_add_right _ _, Nat.add_lt_add_left hj _⟩, Nat.add_sub_cancel_left]

theorem secretBytes_eq_secretOf (s : State) : s.secretBytes = s.secretOf := rfl

theorem textInput_eq_textOf (s : State) : s.textInput = s.textOf := rfl

@[simp] theorem secretOf_length (s : State) : s.secretOf.length = s.slen.toNat := by simp [State.secretOf]

/-- Every pair of flags but both together has an output form, which is the text that R116 gives for them. -/
theorem exists_textForm {pad grp : Bool} (h : pad = true → grp = false) : ∃ form, textForm pad grp = some form
    ∧ ∀ b, b32Encode form b = if grp = true then groupText (b32Chars b)
      else if pad = true then padText (b32Chars b) else b32Chars b := by
  cases grp with
  | true =>
    obtain rfl : pad = false := by simpa using h
    exact ⟨.grouped, rfl, fun _ => rfl⟩
  | false =>
    cases pad with
    | true => exact ⟨.padded, rfl, fun _ => rfl⟩
    | false => exact ⟨.plain, rfl, fun _ => rfl⟩

theorem b32enc_wf {pad grp : Bool} (h : pad = true → grp = false) : (Instr.b32enc pad grp).wf = true := by
  cases pad with
  | false => rfl
  | true => rw [h rfl]; rfl

theorem exec_b32enc (pad grp : Bool) (s : State) : exec (.b32enc pad grp) s = execB32enc pad grp s := rfl

theorem exec_b32enc_success {pad grp : Bool} {s : State} {form : TextForm} (h : pad = true → grp = false)
    (hform : textForm pad grp = some form) (hlen : s.slen.toNat ≤ s.par.secretMax) :
    exec (.b32enc pad grp) s = .next (s.putText (b32Encode form s.secretOf)).afterSuccess := by
  rw [exec_b32enc, execB32enc, guarded_pass (b32enc_wf h) rfl, if_neg (Nat.not_lt.mpr hlen), hform]
  rfl

theorem exec_b32enc_too_long {pad grp : Bool} {s : State} (h : pad = true → grp = false)
    (hlen : s.par.secretMax < s.slen.toNat) : exec (.b32enc pad grp) s = .next (s.afterError 0x12) := by
  rw [exec_b32enc, execB32enc, guarded_pass (b32enc_wf h) rfl, if_pos hlen]
  rfl

theorem encode_b32enc_toNat (pad grp : Bool) : (encode (.b32enc pad grp)).toNat
    = 0x00000020 + (if pad = true then 2 ^ 8 else 0) + (if grp = true then 2 ^ 9 else 0) := by
  cases pad <;> cases grp <;> rfl

/-- Settles O40: a success fills `TEXT` with the encoding in the form of the flags, which fits. -/
theorem b32encWritesText : Obligations.B32encWritesText := by
  intro pad grp s _
  refine ⟨fun h hlen => ?_, exec_b32enc_too_long, ?_, encode_b32enc_toNat pad grp⟩
  · obtain ⟨form, hform, htext⟩ := exists_textForm h
    have hfit : (b32Encode form s.secretOf).length ≤ s.par.textMax := by
      have hle := b32Encode_length_le form s.secretOf
      rw [secretOf_length] at hle
      rw [Params.textMax]
      omega
    refine ⟨(s.fillBuf .text (b32Encode form s.secretOf)).mem, _, htext _, htext _ ▸ hfit,
      htext _ ▸ exec_b32enc_success h hform hlen, fun j hj => ?_, fun a ha => ?_⟩
    · exact htext _ ▸ s.read_fillBuf_at .text _ hj
    · exact (State.read_fillBuf s .text _ a).trans (if_neg ha)
  · rintro rfl rfl
    rfl

/-! ### `B32DEC` (R124): O41 -/

theorem exec_b32dec (s : State) : exec .b32dec s = execB32dec s := rfl

theorem exec_b32dec_ready {s : State} (hready : s.ready = true) : exec .b32dec s = .next (s.afterError 0x11) := by
  have hperm : permitted .b32dec s.ready s.typ = false := by rw [hready]; rfl
  rw [exec_b32dec, execB32dec, guarded, if_neg (by decide), if_pos hperm]
  rfl

section
variable {s : State} (hempty : s.ready = false)
include hempty

theorem permitted_b32dec : permitted .b32dec s.ready s.typ = true := by rw [hempty]; rfl

theorem exec_b32dec_text_too_long (hlen : s.par.textMax < s.tlen.toNat) :
    exec .b32dec s = .next (s.afterError 0x12) := by
  rw [exec_b32dec, execB32dec, guarded_pass rfl (permitted_b32dec hempty), if_pos hlen]
  rfl

theorem exec_b32dec_invalid (hlen : s.tlen.toNat ≤ s.par.textMax) (hdec : b32Decode s.textOf = none) :
    exec .b32dec s = .next (s.afterError 0x01) := by
  rw [exec_b32dec, execB32dec, guarded_pass rfl (permitted_b32dec hempty), if_neg (Nat.not_lt.mpr hlen),
    textInput_eq_textOf, hdec]
  rfl

theorem exec_b32dec_decoded {r : Bytes} (hlen : s.tlen.toNat ≤ s.par.textMax) (hdec : b32Decode s.textOf = some r) :
    exec .b32dec s
      = if s.par.secretMax < r.length then .next (s.afterError 0x12) else .next (s.putSecret r).afterSuccess := by
  rw [exec_b32dec, execB32dec, guarded_pass rfl (permitted_b32dec hempty), if_neg (Nat.not_lt.mpr hlen),
    textInput_eq_textOf, hdec]
  rfl

end

/-- Settles O41: a success fills `SECRET` with the decoded bytes. -/
theorem b32decWritesSecret : Obligations.B32decWritesSecret := by
  intro s
  refine ⟨fun r hempty hlen hdec hfit => ?_, exec_b32dec_ready, exec_b32dec_text_too_long, exec_b32dec_invalid,
    fun r hempty hlen hdec hlong => ?_, rfl⟩
  · refine ⟨(s.fillBuf .secret r).mem, ?_, fun j hj => s.read_fillBuf_at .secret r hj, fun a ha => ?_⟩
    · rw [exec_b32dec_decoded hempty hlen hdec, if_neg (Nat.not_lt.mpr hfit)]
      rfl
    · exact (State.read_fillBuf s .secret r a).trans (if_neg ha)
  · rw [exec_b32dec_decoded hempty hlen hdec, if_pos hlong]

/-! ### The secret read back from its text (R120, R123, R124): O56 -/

/-- A byte string is the list of its bytes by index. -/
theorem map_range_getD (t : Bytes) : (List.range t.length).map (fun j => t.getD j 0#8) = t := by
  refine List.ext_getElem (by simp) fun j _ hj => ?_
  simp [List.getElem?_eq_getElem hj]

/-- A state whose `TEXT` and `TLEN` hold a byte string has it as its text (R40). -/
theorem textOf_eq {s : State} {t : Bytes} (hlen : s.tlen.toNat = t.length)
    (htext : ∀ j < t.length, s.byteAt 0x2000 j = t.getD j 0#8) : s.textOf = t := by
  rw [State.textOf, hlen, ← map_range_getD t, List.length_map, List.length_range]
  exact List.map_congr_left fun j hj => by rw [htext j (List.mem_range.mp hj)]

theorem secretOf_getD (s : State) {i : Nat} (hi : i < s.slen.toNat) : s.secretOf.getD i 0#8 = s.byteAt 0x1000 i :=
  Memory.readBytes_getD s.mem 0x1000 s.slen.toNat i hi

/-- The text after `B32ENC` is an encoding of the secret (R123). -/
theorem exec_b32enc_textOf {s : State} {pad grp : Bool} (hp : s.par.Legal) (hlen : s.slen.toNat ≤ s.par.secretMax)
    (hflags : pad = true → grp = false) : ∃ t form, exec (.b32enc pad grp) s = .next t
      ∧ t.textOf = b32Encode form s.secretOf ∧ t.tlen.toNat ≤ t.par.textMax
      ∧ t.ready = s.ready ∧ t.par = s.par := by
  obtain ⟨m, text, htext, hfit, hexec, hbytes, -⟩ := (b32encWritesText pad grp s hp).1 hflags hlen
  obtain ⟨form, -, hform⟩ := exists_textForm hflags
  have htlen : (BitVec.ofNat 16 text.length).toNat = text.length := by
    obtain ⟨-, hmax, -⟩ := hp
    rw [Params.textMax] at hfit
    exact Nat.mod_eq_of_lt (by omega)
  refine ⟨_, form, hexec, ?_, htlen.trans_le hfit, rfl, rfl⟩
  rw [hform, ← htext]
  exact textOf_eq htlen fun j hj => hbytes j (hj.trans_le hfit)

/-- Settles O56: `B32DEC` reads the text that `B32ENC` wrote, which decodes to the secret by the round trip. -/
theorem exportedSecretReadsBack : Obligations.ExportedSecretReadsBack := by
  intro s pad grp hp hempty hlen hflags
  obtain ⟨t, form, henc, htext, hfit, hready, hpar⟩ := exec_b32enc_textOf hp hlen hflags
  have hdecode : b32Decode t.textOf = some s.secretOf := by rw [htext, b32Decode_b32Encode]
  have hsecret : s.secretOf.length ≤ t.par.secretMax := by rwa [secretOf_length, hpar]
  obtain ⟨m, hdec, hread, -⟩ := (b32decWritesSecret t).1 s.secretOf (hready.trans hempty) hfit hdecode hsecret
  rw [hpar] at hread
  refine ⟨t, _, henc, hdec, rfl, ?_, fun i hi => ?_, fun i hi hi' => ?_⟩
  · show BitVec.ofNat 16 s.secretOf.length = s.slen
    rw [secretOf_length, BitVec.ofNat_toNat, BitVec.setWidth_eq]
  · exact (hread i (hi.trans_le hlen)).trans (secretOf_getD s hi)
  · exact (hread i hi').trans (List.getD_eq_default _ _ ((secretOf_length s).trans_le hi))

end Sys2Proof.Machine

namespace Sys2Proof.Machine

/-! ### The padded message (R142): O47 -/

/-- Settles O47: the number of zero bytes is a residue modulo the block size. -/
theorem paddedMessageShape : Obligations.PaddedMessageShape := by
  intro msg blk hblk
  have hpos : 0 < blk := by omega
  exact ⟨padMsg_length msg blk hblk, padZeros msg.length blk, Nat.mod_lt _ hpos, rfl⟩

/-! ### The message schedule (R146, R152, R158): O48 -/

/-- The words of a schedule are computed one by one: the last one from all the others. -/
theorem extendSchedule_succ {w : Nat} (next : List (BitVec w) → BitVec w) (n : Nat) (ws : List (BitVec w)) :
    extendSchedule next (n + 1) ws = next (extendSchedule next n ws) :: extendSchedule next n ws := by
  induction n generalizing ws with
  | zero => rfl
  | succ n ih => exact ih (next ws :: ws)

@[simp] theorem extendSchedule_length {w : Nat} (next : List (BitVec w) → BitVec w) (n : Nat) (ws : List (BitVec w)) :
    (extendSchedule next n ws).length = n + ws.length := by
  induction n with
  | zero => simp [extendSchedule]
  | succ n ih => rw [extendSchedule_succ, List.length_cons, ih]; omega

section
variable {w : Nat} (next : List (BitVec w) → BitVec w) (ms : List (BitVec w))

@[simp] theorem schedule_sixteen : schedule next 16 ms = ms := by simp [schedule, extendSchedule]

theorem schedule_succ {t : Nat} (ht : 16 ≤ t) :
    schedule next (t + 1) ms = schedule next t ms ++ [next (schedule next t ms).reverse] := by
  rw [schedule, schedule, Nat.sub_add_comm ht, extendSchedule_succ, List.reverse_cons, List.reverse_reverse]

variable {ms} (hms : ms.length = 16)
include hms

theorem schedule_length {rounds : Nat} (hr : 16 ≤ rounds) : (schedule next rounds ms).length = rounds := by
  simp [schedule, hms, hr]

/-- A longer schedule of the same block begins with the shorter one. -/
theorem schedule_take {t rounds : Nat} (ht : 16 ≤ t) (htr : t ≤ rounds) :
    (schedule next rounds ms).take t = schedule next t ms := by
  induction rounds, htr using Nat.le_induction with
  | base => exact List.take_of_length_le (schedule_length next hms ht).le
  | succ rounds htr ih =>
    have hr : 16 ≤ rounds := ht.trans htr
    rw [schedule_succ next ms hr, List.take_append_of_le_length (by rwa [schedule_length next hms hr]), ih]

theorem schedule_getD_of_lt {i t rounds : Nat} (hi : i < t) (ht : 16 ≤ t) (htr : t ≤ rounds) :
    (schedule next rounds ms).getD i 0#w = (schedule next t ms).getD i 0#w := by
  rw [← schedule_take next hms ht htr, List.getD_eq_getElem?_getD, List.getD_eq_getElem?_getD, List.getElem?_take_of_lt hi]

/-- The first 16 words of a schedule are those of the block. -/
theorem schedule_getD_block {t rounds : Nat} (ht : t < 16) (hr : 16 ≤ rounds) :
    (schedule next rounds ms).getD t 0#w = ms.getD t 0#w := by
  rw [schedule_getD_of_lt next hms ht le_rfl hr, schedule_sixteen]

/-- Every further word is computed from the words before it. -/
theorem schedule_getD_next {t rounds : Nat} (ht : 16 ≤ t) (htr : t < rounds) :
    (schedule next rounds ms).getD t 0#w = next (schedule next t ms).reverse := by
  rw [schedule_getD_of_lt next hms t.lt_succ_self (by omega) htr, schedule_succ next ms ht, List.getD_append_right] <;>
    simp [schedule_length next hms ht]

/-- `W[t-k]` of the recurrence is that word of the whole schedule. -/
theorem back_schedule {t rounds k : Nat} (ht : 16 ≤ t) (htr : t < rounds) (hk : 0 < k) (hkt : k ≤ 16) :
    back (schedule next t ms).reverse k = (schedule next rounds ms).getD (t - k) 0#w := by
  have hlen := schedule_length next hms ht
  rw [schedule_getD_of_lt next hms (by omega) ht htr.le, back, List.getD_reverse _ (by omega), hlen]
  congr 1
  omega

end

theorem sha1_schedule_getD {ms : List Word} (hms : ms.length = 16) {t rounds : Nat} (ht : 16 ≤ t) (htr : t < rounds) :
    (schedule sha1Next rounds ms).getD t 0#32
      = ((schedule sha1Next rounds ms).getD (t - 3) 0#32 ^^^ (schedule sha1Next rounds ms).getD (t - 8) 0#32
        ^^^ (schedule sha1Next rounds ms).getD (t - 14) 0#32
        ^^^ (schedule sha1Next rounds ms).getD (t - 16) 0#32).rotateLeft 1 := by
  have hback := fun k => back_schedule sha1Next hms (k := k) ht htr
  rw [schedule_getD_next sha1Next hms ht htr, sha1Next, hback 3, hback 8, hback 14, hback 16] <;> decide

theorem sha2_schedule_getD {w : Nat} (fns : Sha2Fns w) {ms : List (BitVec w)} (hms : ms.length = 16) {t rounds : Nat}
    (ht : 16 ≤ t) (htr : t < rounds) : (schedule (sha2Next fns) rounds ms).getD t 0#w
      = fns.ssig1 ((schedule (sha2Next fns) rounds ms).getD (t - 2) 0#w)
        + (schedule (sha2Next fns) rounds ms).getD (t - 7) 0#w
        + fns.ssig0 ((schedule (sha2Next fns) rounds ms).getD (t - 15) 0#w)
        + (schedule (sha2Next fns) rounds ms).getD (t - 16) 0#w := by
  have hback := fun k => back_schedule (sha2Next fns) hms (k := k) ht htr
  rw [schedule_getD_next (sha2Next fns) hms ht htr, sha2Next, hback 2, hback 7, hback 15, hback 16] <;> decide

/-- Settles O48: the recurrence of SHA-1, and that of SHA-2 with the sigma functions of SHA-256 and of SHA-512. -/
theorem messageScheduleRecurrence : Obligations.MessageScheduleRecurrence := by
  refine ⟨fun ms hms => ?sha1, fun ms hms => ?sha256, fun ms hms => ?sha512⟩
  case sha1 =>
    exact ⟨schedule_length _ hms (by decide), fun t ht => schedule_getD_block _ hms ht (by decide),
      fun t => sha1_schedule_getD hms⟩
  case sha256 =>
    exact ⟨schedule_length _ hms (by decide), fun t ht => schedule_getD_block _ hms ht (by decide),
      fun t => sha2_schedule_getD sha256Fns hms⟩
  case sha512 =>
    exact ⟨schedule_length _ hms (by decide), fun t ht => schedule_getD_block _ hms ht (by decide),
      fun t => sha2_schedule_getD sha512Fns hms⟩

/-! ### A fold as the sequence of its intermediate values -/

/-- The value of a fold after the first `n` elements. -/
def chainAt {α β : Type} (f : β → α → β) (v : β) (xs : List α) (n : Nat) : β := (xs.take n).foldl f v

section
variable {α β : Type} (f : β → α → β) (v : β) (xs : List α)

@[simp] theorem chainAt_zero : chainAt f v xs 0 = v := rfl

theorem chainAt_succ {n : Nat} (hn : n < xs.length) : chainAt f v xs (n + 1) = f (chainAt f v xs n) xs[n] := by
  rw [chainAt, chainAt, List.take_succ_eq_append_getElem hn, List.foldl_append, List.foldl_cons, List.foldl_nil]

theorem chainAt_length {n : Nat} (hn : n = xs.length) : chainAt f v xs n = xs.foldl f v := by
  rw [chainAt, hn, List.take_length]

end

/-! ### The rounds of the compression (R144, R147, R149, R153, R155, R159): O59 -/

theorem blockWords_length (w : Nat) (blk : Bytes) : (blockWords w blk).length = 16 := by simp [blockWords]

/-- `f_t` of R144, where `Parity` serves two ranges of rounds. -/
theorem sha1F_eq (t : Nat) (x y z : Word) : sha1F t x y z
    = if t < 20 then ch x y z else if 40 ≤ t ∧ t < 60 then maj x y z else parity x y z := by
  unfold sha1F
  split
  · rfl
  · split
    · rw [if_neg (by omega)]
    · split
      · rw [if_pos (by omega)]
      · rw [if_neg (by omega)]

/-- The working variables of SHA-1 before round `t` (R147). -/
def sha1VarsAt (h : Sha1Vars) (blk : Bytes) : Nat → Sha1Vars :=
  chainAt (fun v p => sha1Round v p.1 p.2) h (schedule sha1Next 80 (blockWords 32 blk)).zipIdx

theorem sha1VarsAt_succ (h : Sha1Vars) (blk : Bytes) {t : Nat} (ht : t < 80) : sha1VarsAt h blk (t + 1)
    = sha1Round (sha1VarsAt h blk t) ((schedule sha1Next 80 (blockWords 32 blk)).getD t 0#32) t := by
  have hlen : (schedule sha1Next 80 (blockWords 32 blk)).length = 80 :=
    schedule_length _ (blockWords_length 32 blk) (by decide)
  rw [sha1VarsAt, chainAt_succ _ _ _ (by simpa [hlen] using ht), List.getElem_zipIdx,
    List.getD_eq_getElem _ _ (by omega), Nat.zero_add]

theorem sha1Compress_eq (h : Sha1Vars) (blk : Bytes) : sha1Compress h blk
    = ⟨(sha1VarsAt h blk 80).a + h.a, (sha1VarsAt h blk 80).b + h.b, (sha1VarsAt h blk 80).c + h.c,
      (sha1VarsAt h blk 80).d + h.d, (sha1VarsAt h blk 80).e + h.e⟩ := by
  have hlen : 80 = (schedule sha1Next 80 (blockWords 32 blk)).zipIdx.length := by
    rw [List.length_zipIdx, schedule_length _ (blockWords_length 32 blk) (by decide)]
  rw [sha1VarsAt, chainAt_length _ _ _ hlen, sha1Compress]

/-- The working variables of a SHA-2 hash before round `t` (R153, R159). -/
def sha2VarsAt {w : Nat} (fns : Sha2Fns w) (h : Sha2Vars w) (blk : Bytes) : Nat → Sha2Vars w :=
  chainAt (fun v p => sha2Round fns v p.1 p.2) h
    ((schedule (sha2Next fns) fns.k.length (blockWords w blk)).zip fns.k)

/-- `T1` of round `t` (R153, R159). -/
def sha2T1At {w : Nat} (fns : Sha2Fns w) (h : Sha2Vars w) (blk : Bytes) (t : Nat) : BitVec w :=
  (sha2VarsAt fns h blk t).h + fns.bsig1 (sha2VarsAt fns h blk t).e
    + ch (sha2VarsAt fns h blk t).e (sha2VarsAt fns h blk t).f (sha2VarsAt fns h blk t).g + fns.k.getD t 0#w
    + (schedule (sha2Next fns) fns.k.length (blockWords w blk)).getD t 0#w

section
variable {w : Nat} (fns : Sha2Fns w) (hrounds : 16 ≤ fns.k.length) (h : Sha2Vars w) (blk : Bytes)
include hrounds

theorem sha2VarsAt_succ {t : Nat} (ht : t < fns.k.length) : sha2VarsAt fns h blk (t + 1)
    = { a := sha2T1At fns h blk t + (fns.bsig0 (sha2VarsAt fns h blk t).a
          + maj (sha2VarsAt fns h blk t).a (sha2VarsAt fns h blk t).b (sha2VarsAt fns h blk t).c)
        b := (sha2VarsAt fns h blk t).a, c := (sha2VarsAt fns h blk t).b, d := (sha2VarsAt fns h blk t).c
        e := (sha2VarsAt fns h blk t).d + sha2T1At fns h blk t
        f := (sha2VarsAt fns h blk t).e, g := (sha2VarsAt fns h blk t).f, h := (sha2VarsAt fns h blk t).g } := by
  have hlen := schedule_length (sha2Next fns) (blockWords_length w blk) hrounds
  rw [sha2T1At, List.getD_eq_getElem _ _ ht, List.getD_eq_getElem _ _ (by omega), sha2VarsAt,
    chainAt_succ _ _ _ (by simpa [hlen] using ht), List.getElem_zip, sha2Round]

theorem sha2Compress_eq : sha2Compress fns h blk
    = { a := (sha2VarsAt fns h blk fns.k.length).a + h.a, b := (sha2VarsAt fns h blk fns.k.length).b + h.b
        c := (sha2VarsAt fns h blk fns.k.length).c + h.c, d := (sha2VarsAt fns h blk fns.k.length).d + h.d
        e := (sha2VarsAt fns h blk fns.k.length).e + h.e, f := (sha2VarsAt fns h blk fns.k.length).f + h.f
        g := (sha2VarsAt fns h blk fns.k.length).g + h.g, h := (sha2VarsAt fns h blk fns.k.length).h + h.h } := by
  have hlen : fns.k.length = ((schedule (sha2Next fns) fns.k.length (blockWords w blk)).zip fns.k).length := by
    rw [List.length_zip, schedule_length _ (blockWords_length w blk) hrounds, Nat.min_self]
  rw [sha2VarsAt, chainAt_length _ _ _ hlen, sha2Compress]

end

theorem sha256Fns_k_length : sha256Fns.k.length = 64 := rfl

theorem sha512Fns_k_length : sha512Fns.k.length = 80 := rfl

/-- Settles O59: the working variables are the intermediate values of the fold over the rounds. -/
theorem hashRounds : Obligations.HashRounds := by
  refine ⟨fun h blk => ?sha1, fun h blk => ?sha256, fun h blk => ?sha512⟩
  case sha1 =>
    refine ⟨sha1VarsAt h blk, rfl, fun t ht => ?_, sha1Compress_eq h blk⟩
    rw [sha1VarsAt_succ h blk ht, sha1Round, sha1F_eq]
    rfl
  case sha256 =>
    have hrounds : 16 ≤ sha256Fns.k.length := by rw [sha256Fns_k_length]; decide
    exact ⟨sha2VarsAt sha256Fns h blk, sha2T1At sha256Fns h blk, rfl,
      fun t ht => ⟨rfl, sha2VarsAt_succ sha256Fns hrounds h blk ht⟩, sha2Compress_eq sha256Fns hrounds h blk⟩
  case sha512 =>
    have hrounds : 16 ≤ sha512Fns.k.length := by rw [sha512Fns_k_length]; decide
    exact ⟨sha2VarsAt sha512Fns h blk, sha2T1At sha512Fns h blk, rfl,
      fun t ht => ⟨rfl, sha2VarsAt_succ sha512Fns hrounds h blk ht⟩, sha2Compress_eq sha512Fns hrounds h blk⟩

/-! ### The chain over the blocks (R143, R145, R148, R151, R154, R157, R160): O60 -/

@[simp] theorem blocks_length (blk n : Nat) (m : Bytes) : (blocks blk n m).length = n := by
  induction n generalizing m with
  | zero => rfl
  | succ n ih => rw [blocks, List.length_cons, ih]

theorem blocks_getElem (blk n : Nat) (m : Bytes) {i : Nat} (hi : i < (blocks blk n m).length) :
    (blocks blk n m)[i] = (m.drop (blk * i)).take blk := by
  induction n generalizing m i with
  | zero => simp [blocks] at hi
  | succ n ih =>
    cases i with
    | zero => simp [blocks]
    | succ i => simp [blocks, ih, List.drop_drop, Nat.mul_succ, Nat.add_comm]

section
variable {σ : Type} (compress : σ → Bytes → σ) (init : σ) (blk : Nat) (m : Bytes)

/-- The hash value after the first `i` blocks of a padded message. -/
def hashAt : Nat → σ := chainAt compress init (allBlocks blk m)

theorem hashAt_succ {i : Nat} (hi : i < m.length / blk) : hashAt compress init blk m (i + 1)
    = compress (hashAt compress init blk m i) ((m.drop (blk * i)).take blk) := by
  rw [hashAt, chainAt_succ _ _ _ (by rwa [allBlocks, blocks_length])]
  simp only [allBlocks, blocks_getElem]

theorem hashAt_blocks : hashAt compress init blk m (m.length / blk) = (allBlocks blk m).foldl compress init :=
  chainAt_length _ _ _ (blocks_length ..).symm

end

theorem sha1Digest_eq (v : Sha1Vars) : sha1Digest v = beBytes v.a.toNat 4 ++ beBytes v.b.toNat 4 ++ beBytes v.c.toNat 4
    ++ beBytes v.d.toNat 4 ++ beBytes v.e.toNat 4 := by
  simp only [sha1Digest, List.flatMap_cons, List.flatMap_nil, List.append_nil, List.append_assoc]

theorem sha2Digest_eq {w : Nat} (v : Sha2Vars w) : sha2Digest v
    = beBytes v.a.toNat (w / 8) ++ beBytes v.b.toNat (w / 8) ++ beBytes v.c.toNat (w / 8) ++ beBytes v.d.toNat (w / 8)
      ++ beBytes v.e.toNat (w / 8) ++ beBytes v.f.toNat (w / 8) ++ beBytes v.g.toNat (w / 8) ++ beBytes v.h.toNat (w / 8) := by
  simp only [sha2Digest, List.flatMap_cons, List.flatMap_nil, List.append_nil, List.append_assoc]

theorem blockWords_getD (w : Nat) (blk : Bytes) {t : Nat} (ht : t < 16) :
    (blockWords w blk).getD t 0#w = BitVec.ofNat w (beInt ((blk.drop (w / 8 * t)).take (w / 8))) := by
  rw [List.getD_eq_getElem _ _ (by rwa [blockWords_length])]
  simp only [blockWords, List.getElem_map, List.getElem_range, Nat.mul_comm]

/-- Settles O60: the hash values are the intermediate values of the fold over the blocks. -/
theorem hashChains : Obligations.HashChains := by
  refine ⟨fun msg => ?sha1, fun msg => ?sha256, fun msg => ?sha512, fun blk => ?words⟩
  case sha1 =>
    refine ⟨hashAt sha1Compress sha1Init 64 (padMsg msg 64), rfl, fun i => hashAt_succ _ _ _ _, ?_⟩
    rintro n rfl
    rw [hashAt_blocks, sha1, sha1Digest_eq]
  case sha256 =>
    refine ⟨hashAt (sha2Compress sha256Fns) sha256Init 64 (padMsg msg 64), rfl, fun i => hashAt_succ _ _ _ _, ?_⟩
    rintro n rfl
    rw [hashAt_blocks, sha256, sha2Digest_eq]
  case sha512 =>
    refine ⟨hashAt (sha2Compress sha512Fns) sha512Init 128 (padMsg msg 128), rfl, fun i => hashAt_succ _ _ _ _, ?_⟩
    rintro n rfl
    rw [hashAt_blocks, sha512, sha2Digest_eq]
  case words =>
    exact ⟨blockWords_length 32 blk, blockWords_length 64 blk, fun t => blockWords_getD 32 blk,
      fun t => blockWords_getD 64 blk⟩

end Sys2Proof.Machine

namespace Sys2Proof.Machine

/-! ### The key cases of HMAC (R170, R171): O49 -/

section
variable {alg : Alg} {key key' : Bytes}

/-- The key only acts through the block that R170 makes of it. -/
theorem hmac_congr_key (h : hmacKey alg key = hmacKey alg key') (msg : Bytes) : hmac alg key msg = hmac alg key' msg := by
  rw [hmac, hmac, h]

theorem hmacKey_of_le (h : key.length ≤ blockSize alg) :
    hmacKey alg key = key ++ List.replicate (blockSize alg - key.length) 0#8 := by
  rw [hmacKey, if_pos h]

theorem digestSize_le_blockSize (alg : Alg) : digestSize alg ≤ blockSize alg := by
  cases alg <;> decide

/-- The digest of a long key fits in a block, so it is not hashed again. -/
theorem hmacKey_of_lt (h : blockSize alg < key.length) : hmacKey alg key = hmacKey alg (hash alg key) := by
  have hdigest : (hash alg key).length ≤ blockSize alg := (hash_length alg key).trans_le (digestSize_le_blockSize alg)
  rw [hmacKey_of_le hdigest, hmacKey, if_neg (Nat.not_le.mpr h)]

theorem hmacKey_length (alg : Alg) (key : Bytes) : (hmacKey alg key).length = blockSize alg := by
  have hfits {k : Bytes} (hk : k.length ≤ blockSize alg) : (hmacKey alg k).length = blockSize alg := by
    rw [hmacKey_of_le hk, List.length_append, List.length_replicate, Nat.add_sub_cancel' hk]
  rcases Nat.lt_or_ge (blockSize alg) key.length with hlong | hshort
  · rw [hmacKey_of_lt hlong]
    exact hfits ((hash_length alg key).trans_le (digestSize_le_blockSize alg))
  · exact hfits hshort

/-- A byte string extended with zero bytes reads as before, since bytes beyond its end read as 0. -/
theorem getD_append_zeros (k : Bytes) (n i : Nat) : (k ++ List.replicate n 0#8).getD i 0#8 = k.getD i 0#8 := by
  rcases Nat.lt_or_ge i k.length with hi | hi
  · exact List.getD_append _ _ _ _ hi
  · rw [List.getD_append_right _ _ _ _ hi, List.getD_eq_default _ _ hi, List.getD_eq_getElem?_getD,
      List.getElem?_getD_replicate_default_eq]

theorem hmacKey_getD (alg : Alg) (key : Bytes) (i : Nat) :
    (hmacKey alg key).getD i 0#8 = (if key.length ≤ blockSize alg then key else hash alg key).getD i 0#8 :=
  getD_append_zeros _ _ i

theorem hmacKey_append_zeros {n : Nat} (h : key.length + n ≤ blockSize alg) :
    hmacKey alg (key ++ List.replicate n 0#8) = hmacKey alg key := by
  have hlen : (key ++ List.replicate n 0#8).length = key.length + n := by
    rw [List.length_append, List.length_replicate]
  rw [hmacKey_of_le (hlen.trans_le h), hmacKey_of_le (by omega), List.append_assoc, List.replicate_append_replicate, hlen,
    show n + (blockSize alg - (key.length + n)) = blockSize alg - key.length by omega]

end

/-- Settles O49: the block `K0` of R170 is the key block, and the other two clauses are equalities of key blocks. -/
theorem hmacKeyCases : Obligations.HmacKeyCases := by
  intro alg key msg
  refine ⟨⟨hmacKey alg key, hmacKey_length alg key, fun i _ => hmacKey_getD alg key i, rfl⟩, fun hlong => ?long,
    fun n hn => ?zeros⟩
  case long => exact hmac_congr_key (hmacKey_of_lt hlong) msg
  case zeros => exact hmac_congr_key (hmacKey_append_zeros hn) msg

end Sys2Proof.Machine

namespace Sys2Proof.Machine

/-! ### Dynamic truncation (R173 to R176): O50 -/

/-- A mask of the low `k` bits of a byte keeps the remainder modulo `2^k`. -/
theorem toNat_and_low_bits (b : Byte) {k : Nat} (hk : k ≤ 8) : (b &&& BitVec.ofNat 8 (2 ^ k - 1)).toNat = b.toNat % 2 ^ k := by
  have hmask : 2 ^ k - 1 < 2 ^ 8 := (Nat.sub_lt (Nat.two_pow_pos k) Nat.one_pos).trans_le (Nat.pow_le_pow_right (by decide) hk)
  rw [BitVec.toNat_and, BitVec.toNat_ofNat, Nat.mod_eq_of_lt hmask, Nat.and_two_pow_sub_one_eq_mod]

theorem truncOffset_eq (dg : Bytes) : truncOffset dg = (dg.getD (dg.length - 1) 0#8).toNat % 16 :=
  toNat_and_low_bits _ (k := 4) (by decide)

theorem truncOffset_le (dg : Bytes) : truncOffset dg ≤ 15 := by
  rw [truncOffset_eq]
  omega

theorem take_succ_drop {dg : Bytes} {o : Nat} (h : o < dg.length) (n : Nat) :
    (dg.drop o).take (n + 1) = dg.getD o 0#8 :: (dg.drop (o + 1)).take n := by
  rw [List.drop_eq_getElem_cons h, List.take_succ_cons, List.getD_eq_getElem _ _ h]

/-- Four bytes within a byte string, written out. -/
theorem take_four_drop {dg : Bytes} {o : Nat} (h : o + 4 ≤ dg.length) :
    (dg.drop o).take 4 = [dg.getD o 0#8, dg.getD (o + 1) 0#8, dg.getD (o + 2) 0#8, dg.getD (o + 3) 0#8] := by
  rw [take_succ_drop (by omega) 3, take_succ_drop (by omega) 2, take_succ_drop (by omega) 1, take_succ_drop (by omega) 0,
    List.take_zero]

/-- The truncation is the big-endian integer of the four bytes at the offset, modulo `2^31` (R175). -/
theorem dynTrunc_eq_beInt {dg : Bytes} (h : truncOffset dg + 4 ≤ dg.length) :
    dynTrunc dg = beInt ((dg.drop (truncOffset dg)).take 4) % 2 ^ 31 := by
  have hmask : (dg.getD (truncOffset dg) 0#8 &&& 0x7F#8).toNat = (dg.getD (truncOffset dg) 0#8).toNat % 128 :=
    toNat_and_low_bits _ (k := 7) (by decide)
  have h0 := (dg.getD (truncOffset dg) 0#8).isLt
  have h1 := (dg.getD (truncOffset dg + 1) 0#8).isLt
  have h2 := (dg.getD (truncOffset dg + 2) 0#8).isLt
  have h3 := (dg.getD (truncOffset dg + 3) 0#8).isLt
  simp only [take_four_drop h, dynTrunc, beInt, List.foldl_cons, List.foldl_nil]
  omega

/-- R176's bound keeps the four bytes within every digest. -/
theorem truncOffset_hmac_bound (alg : Alg) (key msg : Bytes) :
    truncOffset (hmac alg key msg) + 4 ≤ (hmac alg key msg).length := by
  have hoffset := truncOffset_le (hmac alg key msg)
  have hsize : 20 ≤ digestSize alg := by cases alg <;> decide
  rw [hmac_length]
  omega

/-- The truncation reads the last byte and bytes up to index 18 only (R176). -/
theorem dynTrunc_congr {dg dg' : Bytes} (hlen : dg.length = dg'.length) (hlow : ∀ i ≤ 18, dg.getD i 0#8 = dg'.getD i 0#8)
    (hlast : dg.getD (dg.length - 1) 0#8 = dg'.getD (dg.length - 1) 0#8) : dynTrunc dg = dynTrunc dg' := by
  have hoffset : truncOffset dg = truncOffset dg' := by rw [truncOffset, truncOffset, hlast, hlen]
  have hle := truncOffset_le dg'
  simp only [dynTrunc, hoffset]
  rw [hlow _ (by omega), hlow _ (by omega), hlow _ (by omega), hlow _ (by omega)]

/-- Settles O50: the offset is at most 15 and every digest has at least 20 bytes. -/
theorem truncationOfDigest : Obligations.TruncationOfDigest := by
  refine ⟨fun alg key msg => ?digest, fun _ _ => dynTrunc_congr⟩
  have hoffset := truncOffset_eq (hmac alg key msg)
  rw [hmac_length] at hoffset
  exact ⟨hmac_length alg key msg, hoffset, Nat.add_le_add_right (truncOffset_le _) 3,
    dynTrunc_eq_beInt (truncOffset_hmac_bound alg key msg)⟩

end Sys2Proof.Machine

namespace Sys2Proof.Machine

/-! ### The characters of a code (R177 to R179): O51 -/

/-- Reduction modulo `10^d` keeps the digits of weight below `10^d`. -/
theorem digit_of_mod_pow (v : Nat) {e d : Nat} (he : e < d) : v % 10 ^ d / 10 ^ e % 10 = v / 10 ^ e % 10 := by
  have hsplit : 10 ^ d = 10 ^ e * 10 ^ (d - e) := by rw [← Nat.pow_add, Nat.add_sub_cancel' he.le]
  rw [hsplit, Nat.mod_mul_right_div_self, Nat.mod_mod_of_dvd _ (dvd_pow_self 10 (by omega))]

theorem renderDigits_getElem (v d : Nat) {j : Nat} (hj : j < (renderDigits v d).length) :
    (renderDigits v d)[j] = BitVec.ofNat 8 (0x30 + v / 10 ^ (d - 1 - j) % 10) := by
  rw [← renderDigits_getD v d j (by simpa using hj), List.getD_eq_getElem _ _ hj]

/-- Byte `j` of a rendering, as a number (R178). -/
theorem renderDigits_getD_toNat (v d : Nat) {j : Nat} (hj : j < d) :
    ((renderDigits v d).getD j 0#8).toNat = 0x30 + v / 10 ^ (d - 1 - j) % 10 := by
  rw [renderDigits_getD v d j hj, BitVec.toNat_ofNat]
  omega

/-- The `d` digits that are rendered are those that the reduction keeps. -/
theorem renderDigits_codeValue (p d : Nat) : renderDigits (codeValue p d) d = renderDigits p d := by
  refine List.ext_getElem (by simp) fun j hj _ => ?_
  have hjd : j < d := by simpa using hj
  rw [renderDigits_getElem, renderDigits_getElem, codeValue, digit_of_mod_pow p (by omega)]

/-- The last `d` of `d + k` rendered digits are the `d` digits of lowest weight. -/
theorem renderDigits_drop (v d k : Nat) : (renderDigits v (d + k)).drop k = renderDigits v d := by
  refine List.ext_getElem (by simp) fun j _ _ => ?_
  rw [List.getElem_drop, renderDigits_getElem, renderDigits_getElem, show d + k - 1 - (k + j) = d - 1 - j by omega]

theorem codeStr_eq_renderDigits (secret : Bytes) (alg : Alg) (d : Nat) (ctr : DWord) :
    codeStr secret alg d ctr = renderDigits (dynTrunc (hmac alg secret (counterMsg ctr))) d :=
  renderDigits_codeValue _ d

theorem mem_renderDigits_isDigit {v d : Nat} {c : Byte} (hc : c ∈ renderDigits v d) : 0x30 ≤ c.toNat ∧ c.toNat ≤ 0x39 := by
  obtain ⟨j, hj, rfl⟩ := List.getElem_of_mem hc
  have hdigit := renderDigits_isDigit v d j (by simpa using hj)
  rwa [List.getD_eq_getElem _ _ hj] at hdigit

/-- Settles O51: the suffix law holds because the reduction does not change a rendered digit. -/
theorem codeShape : Obligations.CodeShape := by
  intro secret alg d ctr
  refine ⟨rfl, codeStr_length secret alg d ctr, fun j hj => renderDigits_getD_toNat _ d hj, fun c => mem_renderDigits_isDigit,
    fun k => ?suffix⟩
  rw [codeStr_eq_renderDigits, codeStr_eq_renderDigits, renderDigits_drop]

end Sys2Proof.Machine

namespace Sys2Proof.Machine

/-! ### The tests before a command's writes (R190) -/

/-- Every command makes the two tests of `guarded` first. -/
theorem exec_eq_guarded (i : Instr) (s : State) : ∃ k, exec i s = guarded i s k := by
  cases i <;> simp only [exec, execInit, execClear, execSetalg, execSetstep, execSetmaxw, execGen, execVerify, execB32enc,
    execB32dec] <;> exact ⟨_, rfl⟩

theorem exec_illegal {i : Instr} (s : State) (h : i.wf = false) : exec i s = .next (s.afterError 0x10) := by
  obtain ⟨k, hk⟩ := exec_eq_guarded i s
  rw [hk, guarded, if_pos h]
  rfl

theorem exec_notPermitted {i : Instr} {s : State} (h : i.wf = true) (h' : permitted i s.ready s.typ = false) :
    exec i s = .next (s.afterError 0x11) := by
  obtain ⟨k, hk⟩ := exec_eq_guarded i s
  rw [hk, guarded, if_neg (by simp [h]), if_pos h']
  rfl

/-! ### The word of a command as a number (R90, R92) -/

theorem encode_toNat (i : Instr) :
    (encode i).toNat = i.opcode.toNat + i.flags.toNat * 2 ^ 8 + i.imm.toNat * 2 ^ 16 := by
  simp only [encode, assemble, toNat_append_eq_add, BitVec.toNat_ofNat]
  omega

theorem flagsOf_toNat (x y : Bool) :
    (flagsOf x y).toNat = (if x = true then 1 else 0) + (if y = true then 2 else 0) := by
  cases x <;> cases y <;> rfl

/-! ### `INIT` (R191): O32 -/

theorem exec_init (ty : EngineType) (d : BitVec 4) (s : State) : exec (.init ty d) s = execInit ty d s := rfl

theorem init_wf_iff {ty : EngineType} {d : BitVec 4} : (Instr.init ty d).wf = true ↔ 1 ≤ d.toNat ∧ d.toNat ≤ 10 :=
  decide_eq_true_iff

theorem initialMaxwin_eq (ty : EngineType) : initialMaxwin ty = if ty = EngineType.totp then 3 else 1 := by
  cases ty <;> rfl

section
variable {ty : EngineType} {d : BitVec 4} {s : State} (hwf : (Instr.init ty d).wf = true)
include hwf

theorem exec_init_ready (hready : s.ready = true) : exec (.init ty d) s = .next (s.afterError 0x11) :=
  exec_notPermitted hwf (by rw [hready]; rfl)

theorem exec_init_empty (hempty : s.ready = false) : exec (.init ty d) s
    = if s.par.secretMax < s.slen.toNat then .next (s.afterError 0x12) else .next (s.construct ty d).afterSuccess := by
  rw [exec_init, execInit, guarded_pass hwf (by rw [hempty]; rfl)]
  rfl

end

theorem encode_init_toNat (ty : EngineType) (d : BitVec 4) : (encode (.init ty d)).toNat
    = 0x00000001 + (if ty = EngineType.totp then 2 ^ 8 else 0) + d.toNat * 2 ^ 16 := by
  have himm : (Instr.init ty d).imm.toNat = d.toNat := BitVec.toNat_setWidth_of_le (by decide)
  rw [encode_toNat, himm, Instr.flags, flagsOf_toNat]
  cases ty <;> simp [Instr.opcode, EngineType.bit]

/-- Settles O32: a success fills `CODE` with zero bytes. -/
theorem initConstructs : Obligations.InitConstructs := by
  intro ty d s
  refine ⟨fun hlow hhigh hempty hlen => ?_, fun hlow hhigh => exec_init_ready (init_wf_iff.mpr ⟨hlow, hhigh⟩),
    fun hlow hhigh hempty hlong => ?_, fun hd => exec_illegal s ?_, encode_init_toNat ty d⟩
  · refine ⟨(s.fillBuf .code []).mem, ?_, fun j hj => s.read_fillBuf_code [] hj, fun a ha => ?_⟩
    · rw [exec_init_empty (init_wf_iff.mpr ⟨hlow, hhigh⟩) hempty, if_neg (Nat.not_lt.mpr hlen), ← initialMaxwin_eq]
      rfl
    · exact (State.read_fillBuf s .code [] a).trans (if_neg ha)
  · rw [exec_init_empty (init_wf_iff.mpr ⟨hlow, hhigh⟩) hempty, if_pos hlong]
  · rw [← Bool.not_eq_true, init_wf_iff]
    omega

/-! ### `CLEAR` (R192): O33 -/

theorem exec_clear (s : State) : exec .clear s = .next s.zeroize.afterSuccess := rfl

/-- Settles O33: the state of `zeroize` has no listed byte. -/
theorem clearZeroizes : Obligations.ClearZeroizes := fun s => ⟨s.zeroize.mem, exec_clear s, Memory.read_nil, rfl⟩

/-! ### `SETALG` and `SETMAXW` (R193, R194): O35, O36 -/

theorem exec_setalg (a : Alg) (s : State) : exec (.setalg a) s = execSetalg a s := rfl

theorem exec_setalg_ready {s : State} (a : Alg) (hready : s.ready = true) :
    exec (.setalg a) s = .next (State.afterSuccess { s with alg := a }) := by
  rw [exec_setalg, execSetalg, guarded_pass (i := .setalg a) rfl hready, succeed_eq]

theorem exec_setmaxw (n : BitVec 8) (s : State) : exec (.setmaxw n) s = execSetmaxw n s := rfl

theorem exec_setmaxw_ready {s : State} {n : BitVec 8} (hn : (Instr.setmaxw n).wf = true) (hready : s.ready = true) :
    exec (.setmaxw n) s = .next (State.afterSuccess { s with maxwin := n }) := by
  rw [exec_setmaxw, execSetmaxw, guarded_pass hn hready, succeed_eq]

theorem setmaxw_wf_iff {n : BitVec 8} : (Instr.setmaxw n).wf = true ↔ n ≠ 0 := by
  rw [Instr.wf, decide_eq_true_iff, Nat.one_le_iff_ne_zero, ne_eq, ne_eq, BitVec.toNat_eq]
  rfl

/-- Settles O35: the phase is the only test that a `SETALG` can fail. -/
theorem setalgSwitchesAlgorithm : Obligations.SetalgSwitchesAlgorithm := by
  intro a s
  refine ⟨exec_setalg_ready a, exec_notPermitted (i := .setalg a) rfl, ?_⟩
  rw [encode_toNat]
  cases a <;> rfl

/-- Settles O36: the encoding of the operand is tested before the phase. -/
theorem setmaxwSetsWindow : Obligations.SetmaxwSetsWindow := by
  intro n s
  refine ⟨fun hn => exec_setmaxw_ready (setmaxw_wf_iff.mpr hn), fun hn => exec_notPermitted (setmaxw_wf_iff.mpr hn),
    fun hn => exec_illegal s (by rw [hn]; rfl), ?_⟩
  simp [encode_toNat, Instr.opcode, Instr.flags, Instr.imm]

/-! ### The effective counter and its code as numbers (R179, R195, R196, R232, R233) -/

theorem effectiveCounter_toNat (s : State) (d : Bool) : (s.effectiveCounter d).toNat = s.counterNat d := by
  unfold State.effectiveCounter State.transform State.rawCounter State.defaultRaw State.counterNat State.rawNat
  cases s.typ <;> cases d <;> simp

theorem counterNat_lt (s : State) (d : Bool) : s.counterNat d < 2 ^ 64 := effectiveCounter_toNat s d ▸ BitVec.isLt _

theorem codeAt_eq_codeOf (s : State) (ctr : DWord) : s.codeAt ctr = s.codeOf ctr.toNat := by
  rw [State.codeOf, BitVec.ofNat_toNat, BitVec.setWidth_eq]
  rfl

@[simp] theorem codeOf_length (s : State) (c : Nat) : (s.codeOf c).length = s.digits.toNat := codeStr_length _ _ _ _

theorem nextSeq_eq (s : State) (d : Bool) :
    s.nextSeq d = if d = true ∧ s.typ = EngineType.hotp then s.seq + 1 else s.seq := by
  unfold State.nextSeq
  cases d <;> cases s.typ <;> rfl

/-! ### `GEN` (R197): O38 -/

theorem exec_gen (d : Bool) (s : State) : exec (.gen d) s = execGen d s := rfl

theorem exec_gen_ready {s : State} (d : Bool) (hready : s.ready = true) :
    exec (.gen d) s = .next (State.afterSuccess { s with
      mem := (s.fillBuf .code (s.codeAt (s.effectiveCounter d))).mem
      codelen := s.digits.setWidth 5
      seq := s.nextSeq d }) := by
  rw [exec_gen, execGen, guarded_pass (i := .gen d) rfl hready, succeed_eq]

/-- Settles O38: a success fills `CODE` with the code of the effective counter. -/
theorem genWritesCode : Obligations.GenWritesCode := by
  intro d s
  refine ⟨fun hready => ?_, exec_notPermitted (i := .gen d) rfl, by cases d <;> rfl⟩
  refine ⟨(s.fillBuf .code (s.codeAt (s.effectiveCounter d))).mem, ?_, fun j hj => ?_, fun a ha => ?_⟩
  · rw [exec_gen_ready d hready, nextSeq_eq, setWidth_eq_ofNat]
  · rw [← effectiveCounter_toNat, ← codeAt_eq_codeOf]
    exact s.read_fillBuf_code _ hj
  · exact (State.read_fillBuf s .code _ a).trans (if_neg ha)

/-! ### The clamped window (R206, R207): O54 -/

theorem clampWindow_cast (win : Int) (mw : Nat) : (clampWindow win mw : Int) = min (max win 1) mw :=
  Int.toNat_of_nonneg (by omega)

/-- Settles O54: each clause is a case of the `min` and the `max` of the clamp. -/
theorem windowIsClamped : Obligations.WindowIsClamped := by
  intro win mw hmw
  have hclamp := clampWindow_cast win mw
  omega

theorem windowInt_eq (s : State) (wd : Bool) :
    s.windowInt wd = (clampWindow (s.requestedWindow wd) s.maxwin.toNat : Int) := by
  rw [clampWindow_cast]
  unfold State.windowInt State.requestedWindow State.defaultWindow
  cases wd <;> cases s.typ <;> rfl

/-! ### The counters of a scan (R208): O53 -/

@[simp] theorem scanCounters_length (ctr : DWord) (w : Nat) : (scanCounters ctr w).length = w := by simp [scanCounters]

theorem scanCounters_getElem? (ctr : DWord) {w i : Nat} (hi : i < w) :
    (scanCounters ctr w)[i]? = some (scanStart ctr w + BitVec.ofNat 64 i) := by
  simp [scanCounters, hi]

/-- The counter at a place of the scan, modulo `2^64` as R208 writes it. -/
theorem scanCounter_toNat (ctr : DWord) (w i : Nat) :
    (scanStart ctr w + BitVec.ofNat 64 i).toNat = scanCounterNat ctr.toNat w i := by
  simp only [scanStart, scanCounterNat, BitVec.toNat_add, BitVec.toNat_sub, BitVec.ofNat_eq_ofNat, BitVec.toNat_ofNat]
  omega

/-- The base counter stands at place `ceil(w/2) - 1`. -/
theorem scanCounterNat_base {c w : Nat} (hc : c < 2 ^ 64) (hw : 1 ≤ w) : scanCounterNat c w ((w + 1) / 2 - 1) = c := by
  unfold scanCounterNat
  omega

/-- The last counter lies `w div 2` after the base counter. -/
theorem scanCounterNat_last (c : Nat) {w : Nat} (hw : 1 ≤ w) :
    scanCounterNat c w (w - 1) = (c + w / 2) % 2 ^ 64 := by
  unfold scanCounterNat
  omega

/-- Settles O53: each place is found by its number. -/
theorem scanIsCentred : Obligations.ScanIsCentred := by
  intro ctr w hw _
  have hplace {i : Nat} (hi : i < w) {c : DWord} (hc : scanCounterNat ctr.toNat w i = c.toNat) :
      (scanCounters ctr w)[i]? = some c := by
    rw [scanCounters_getElem? ctr hi, BitVec.eq_of_toNat_eq ((scanCounter_toNat ctr w i).trans hc)]
  refine ⟨scanCounters_length ctr w, fun i hi => ?_, hplace (by omega) (scanCounterNat_base ctr.isLt hw), ?_⟩
  · rw [scanCounters_getElem? ctr hi, Option.map_some, scanCounter_toNat]
  · rw [List.getLast?_eq_getElem?, scanCounters_length]
    refine hplace (by omega) ?_
    rw [scanCounterNat_last _ hw, BitVec.toNat_add, BitVec.toNat_ofNat, Nat.add_mod_mod]

/-! ### The candidate (R210) -/

/-- The bytes of a range are a byte string when each of them is. -/
theorem Memory.readBytes_eq_iff {m : Memory} {a : Nat} {bs : Bytes} :
    m.readBytes a bs.length = bs ↔ ∀ j < bs.length, m.read (a + j) = bs.getD j 0#8 := by
  refine ⟨fun h j hj => ?_, fun h => ?_⟩
  · rw [← m.readBytes_getD a _ j hj, h]
  · calc m.readBytes a bs.length = (List.range bs.length).map (fun j => bs.getD j 0#8) :=
          List.map_congr_left fun j hj => h j (List.mem_range.mp hj)
      _ = bs := map_range_getD bs

/-- A candidate equals a code exactly when the `CLEN` bytes of `CAND` are the code. -/
theorem candidateIs_iff {s : State} {code : Bytes} (hlen : code.length = s.digits.toNat) :
    s.CandidateIs code ↔ s.bufBytes .cand s.clen.toNat = code := by
  have hbytes : s.bufBytes .cand s.digits.toNat = code ↔ ∀ j < s.digits.toNat, s.byteAt 0x060 j = code.getD j 0#8 :=
    hlen ▸ Memory.readBytes_eq_iff
  refine ⟨fun ⟨hclen, hcand⟩ => hclen ▸ hbytes.mpr hcand, fun h => ?_⟩
  have hclen : s.clen.toNat = s.digits.toNat := by
    rw [← hlen, ← h]
    exact (Memory.readBytes_length _ _ _).symm
  exact ⟨hclen, hbytes.mp (hclen ▸ h)⟩

theorem candMatches_iff {s : State} {code : Bytes} (hlen : code.length = s.digits.toNat) :
    s.candMatches code = true ↔ s.CandidateIs code := by
  rw [State.candMatches, Bool.and_eq_true, decide_eq_true_iff, decide_eq_true_iff, candidateIs_iff hlen]
  refine ⟨fun ⟨hclen, hcand⟩ => hclen ▸ hcand, fun h => ?_⟩
  have hclen : s.clen.toNat = s.digits.toNat := ((candidateIs_iff hlen).mpr h).1
  exact ⟨hclen, hclen ▸ h⟩

/-! ### `VERIFY` (R205, R209): O39 -/

theorem exec_verify (d wd : Bool) (s : State) : exec (.verify d wd) s = execVerify d wd s := rfl

theorem exec_verify_ready {s : State} (d wd : Bool) (hready : s.ready = true) :
    exec (.verify d wd) s = .next (State.afterSuccess { s with matched := s.verifyScan d wd, seq := s.nextSeq d }) := by
  rw [exec_verify, execVerify, guarded_pass (i := .verify d wd) rfl hready, succeed_eq]

theorem mem_scanCounters {ctr c : DWord} {w : Nat} :
    c ∈ scanCounters ctr w ↔ ∃ i < w, scanStart ctr w + BitVec.ofNat 64 i = c := by
  simp [scanCounters]

/-- The scan finds a match exactly when the candidate is the code of a counter of the window. -/
theorem verifyScan_iff (s : State) (d wd : Bool) : s.verifyScan d wd = true ↔ ∃ i : Nat, (i : Int) < s.windowInt wd
    ∧ s.CandidateIs (s.codeOf (scanCounterNat (s.counterNat d) (s.windowInt wd) i)) := by
  have hplace (w i : Nat) : s.candMatches (s.codeAt (scanStart (s.effectiveCounter d) w + BitVec.ofNat 64 i)) = true
      ↔ s.CandidateIs (s.codeOf (scanCounterNat (s.counterNat d) w i)) := by
    rw [codeAt_eq_codeOf, scanCounter_toNat, effectiveCounter_toNat, candMatches_iff (codeOf_length _ _)]
  rw [State.verifyScan, List.any_eq_true, windowInt_eq]
  constructor
  · rintro ⟨c, hc, hmatch⟩
    obtain ⟨i, hi, rfl⟩ := mem_scanCounters.mp hc
    exact ⟨i, Int.ofNat_lt.mpr hi, (hplace _ i).mp hmatch⟩
  · rintro ⟨i, hi, hcand⟩
    exact ⟨_, mem_scanCounters.mpr ⟨i, Int.ofNat_lt.mp hi, rfl⟩, (hplace _ i).mpr hcand⟩

theorem encode_verify_toNat (d wd : Bool) : (encode (.verify d wd)).toNat
    = 0x00000011 + (if d = true then 2 ^ 8 else 0) + (if wd = true then 2 ^ 9 else 0) := by
  rw [encode_toNat, Instr.flags, flagsOf_toNat]
  cases d <;> cases wd <;> rfl

/-- Settles O39: `MATCH` is the result of the scan. -/
theorem verifySetsMatch : Obligations.VerifySetsMatch := by
  intro d wd s
  refine ⟨fun hready => ⟨s.verifyScan d wd, ?_, verifyScan_iff s d wd⟩, exec_notPermitted (i := .verify d wd) rfl,
    encode_verify_toNat d wd⟩
  rw [exec_verify_ready d wd hready, nextSeq_eq]

/-! ### The default counter (R195, R232): O42 -/

/-- The default raw counter, supplied in `OPA`, has the same effective counter. -/
theorem effectiveCounter_supplied (s : State) (q : DWord) :
    State.effectiveCounter { s with opa := s.defaultRaw, seq := q } false = s.effectiveCounter true := rfl

theorem verifyScan_supplied (s : State) (q : DWord) (wd : Bool) :
    State.verifyScan { s with opa := s.defaultRaw, seq := q } false wd = s.verifyScan true wd := by
  unfold State.verifyScan
  rw [effectiveCounter_supplied]
  rfl

section
variable {s : State} (hready : s.ready = true) (q : DWord)
include hready

/-- `GEN.D` is `GEN` of the default raw counter in `OPA`, but for `OPA` and `SEQ`; `SEQ` itself is not read. -/
theorem exec_gen_default : ∃ t u, exec (.gen true) s = .next t
    ∧ exec (.gen false) { s with opa := s.defaultRaw, seq := q } = .next u
    ∧ t = { u with opa := s.opa, seq := s.nextSeq true } := by
  refine ⟨_, _, exec_gen_ready true hready, exec_gen_ready false hready, ?_⟩
  rw [effectiveCounter_supplied]
  rfl

/-- `VERIFY.D` is `VERIFY` of the default raw counter in `OPA`, but for `OPA` and `SEQ`; `SEQ` itself is not read. -/
theorem exec_verify_default (wd : Bool) : ∃ t u, exec (.verify true wd) s = .next t
    ∧ exec (.verify false wd) { s with opa := s.defaultRaw, seq := q } = .next u
    ∧ t = { u with opa := s.opa, seq := s.nextSeq true } := by
  refine ⟨_, _, exec_verify_ready true wd hready, exec_verify_ready false wd hready, ?_⟩
  rw [verifyScan_supplied]
  rfl

end

/-- Settles O42: in type hotp the default raw counter is `SEQ`. -/
theorem defaultCounterOfHotp : Obligations.DefaultCounterOfHotp := by
  intro s wd hready htyp
  have hraw : s.defaultRaw = s.seq := by rw [State.defaultRaw, htyp]
  have hseq : s.nextSeq true = BitVec.ofNat 64 (s.seq.toNat + 1) := by
    rw [nextSeq_eq, if_pos ⟨rfl, htyp⟩, BitVec.ofNat_add, BitVec.ofNat_toNat, BitVec.setWidth_eq]
    rfl
  rw [← hseq]
  exact ⟨hraw ▸ exec_gen_default hready s.seq, hraw ▸ exec_verify_default hready s.seq wd⟩

/-! ### A code that `GEN` made (R211): O55 -/

/-- The base counter is in every window, so its own code always matches. -/
theorem verifyScan_of_code {s : State} {d : Bool} (wd : Bool) (hmax : 1 ≤ s.maxwin.toNat)
    (hcand : s.CandidateIs (s.codeOf (s.counterNat d))) : s.verifyScan d wd = true := by
  obtain ⟨hw, -⟩ := windowIsClamped (s.requestedWindow wd) s.maxwin.toNat hmax
  refine (verifyScan_iff s d wd).mpr ?_
  rw [windowInt_eq]
  refine ⟨_, ?_, (scanCounterNat_base (counterNat_lt s d) hw).symm ▸ hcand⟩
  omega

theorem secretOf_congr {s u : State} (hlen : u.slen = s.slen)
    (hbytes : ∀ i < s.slen.toNat, u.byteAt 0x1000 i = s.byteAt 0x1000 i) : u.secretOf = s.secretOf := by
  rw [State.secretOf, hlen]
  exact List.map_congr_left fun i hi => hbytes i (List.mem_range.mp hi)

theorem codeOf_congr {s u : State} (hsecret : u.secretOf = s.secretOf) (halg : u.alg = s.alg) (hdigits : u.digits = s.digits)
    (c : Nat) : u.codeOf c = s.codeOf c := by
  rw [State.codeOf, hsecret, halg, hdigits, State.codeOf]

theorem counterNat_congr {s u : State} (htyp : u.typ = s.typ) (hstep : u.timeStep = s.timeStep) (hopa : u.opa = s.opa) :
    u.counterNat false = s.counterNat false := by
  simp [State.counterNat, State.rawNat, htyp, hstep, hopa]

/-- Settles O55: the code of the supplied counter is the candidate, and that counter is in the window. -/
theorem verifyAcceptsGeneratedCode : Obligations.VerifyAcceptsGeneratedCode := by
  constructor
  · intro s t u wd hready hmax hgen hready' halg htyp hdigits hstep hopa hmaxwin hslen hsecret hclen hcand
    obtain ⟨m, hexec, hcode, hframe⟩ := (genWritesCode false s).1 hready
    rw [hexec] at hgen
    cases hgen
    have hsecret' : u.secretOf = s.secretOf := secretOf_congr hslen fun i hi => (hsecret i hi).trans (hframe _ (by omega))
    have hdigits16 : s.digits.toNat < 16 := s.digits.isLt
    have hcodelen : u.clen.toNat = s.digits.toNat := hclen.trans (Nat.mod_eq_of_lt (by omega))
    have hmatch : u.CandidateIs (u.codeOf (u.counterNat false)) := by
      rw [codeOf_congr hsecret' halg hdigits, counterNat_congr htyp hstep hopa]
      refine ⟨hdigits ▸ hcodelen, fun j hj => ?_⟩
      rw [hdigits] at hj
      have hj16 : j < 16 := hj.trans hdigits16
      exact (hcand j hj16).trans (hcode j hj16)
    exact ⟨_, exec_verify_ready false wd hready', verifyScan_of_code wd (hmaxwin ▸ hmax) hmatch, rfl⟩
  · intro s t wd hready hexec hnone
    rw [exec_verify_ready false wd hready] at hexec
    cases hexec
    refine Bool.eq_false_iff.mpr fun hmatch => ?_
    obtain ⟨i, hi, hcand⟩ := (verifyScan_iff s false wd).mp hmatch
    exact hnone i hi ((candidateIs_iff (codeOf_length _ _)).mp hcand)

end Sys2Proof.Machine

namespace Sys2Proof.Machine

/-! ### `SETSTEP` (R234): O37 -/

/-- As a signed number a word is not positive exactly when it is 0 or its sign bit is set. -/
theorem toInt_nonpos_iff {x : DWord} : x.toInt ≤ 0 ↔ x = 0 ∨ x.getLsbD 63 = true := by
  have hneg : x.toInt < 0 ↔ x.getLsbD 63 = true := by
    rw [← BitVec.msb_eq_getLsbD_last, BitVec.msb_eq_toInt, decide_eq_true_iff]
  have hzero : x.toInt = 0 ↔ x = 0 := BitVec.toInt_inj (y := 0)
  rw [Int.le_iff_lt_or_eq, hneg, hzero, or_comm]

theorem exec_setstep (s : State) : exec .setstep s = execSetstep s := rfl

theorem permitted_setstep_iff {ready : Bool} {typ : EngineType} :
    permitted .setstep ready typ = true ↔ ready = true ∧ typ = .totp := by
  rw [permitted, Bool.and_eq_true, decide_eq_true_iff]

theorem exec_setstep_totp {s : State} (hready : s.ready = true) (htyp : s.typ = .totp) : exec .setstep s
    = if s.opa.toInt ≤ 0 then .next (s.afterError 0x03) else .next (State.afterSuccess { s with timeStep := s.opa }) := by
  rw [exec_setstep, execSetstep, guarded_pass rfl (permitted_setstep_iff.mpr ⟨hready, htyp⟩), succeed_eq, raiseError_eq]
  rfl

/-- Settles O37: the signed comparison of R234 is read off the bits of `OPA`. -/
theorem setstepRejectsNonPositive : Obligations.SetstepRejectsNonPositive := by
  intro s
  refine ⟨fun hready htyp hne hsign => ?_, fun hready htyp hbad => ?_, fun hphase => ?_, rfl⟩
  · rw [exec_setstep_totp hready htyp, if_neg]
    rw [toInt_nonpos_iff, not_or, Bool.not_eq_true]
    exact ⟨hne, hsign⟩
  · rw [exec_setstep_totp hready htyp, if_pos (toInt_nonpos_iff.mpr hbad)]
  · refine exec_notPermitted rfl (Bool.eq_false_iff.mpr fun hperm => ?_)
    obtain ⟨hready, htyp⟩ := permitted_setstep_iff.mp hperm
    simp [hready, htyp] at hphase

/-! ### The default counter of type totp (R232): O43 -/

/-- Settles O43: in type totp the default raw counter is `TSAMP`, and it advances no `SEQ`. -/
theorem defaultCounterOfTotp : Obligations.DefaultCounterOfTotp := by
  intro s wd q hready htyp
  have hraw : s.defaultRaw = s.tsamp := by rw [State.defaultRaw, htyp]
  have hseq : s.nextSeq true = s.seq := by rw [nextSeq_eq, if_neg (by simp [htyp])]
  have hdefault := And.intro (exec_gen_default hready q) (exec_verify_default hready q wd)
  rwa [hraw, hseq] at hdefault

/-! ### The transform of type totp (R233, R236): O52 -/

section
variable {s : State} (htyp : s.typ = .totp)
include htyp

theorem transform_totp (x : DWord) : s.transform x = x / s.timeStep := by rw [State.transform, htyp]

/-- The effective counter of a timestamp is the number of its interval. -/
theorem transform_toNat_eq_iff (hstep : 1 ≤ s.timeStep.toNat) (x : DWord) (k : Nat) : (s.transform x).toNat = k
    ↔ k * s.timeStep.toNat ≤ x.toNat ∧ x.toNat ≤ k * s.timeStep.toNat + s.timeStep.toNat - 1 := by
  rw [transform_totp htyp, BitVec.toNat_udiv, Nat.div_eq_iff hstep]

theorem transform_eq_iff (hstep : 1 ≤ s.timeStep.toNat) (x y : DWord) : s.transform x = s.transform y
    ↔ ∃ k, k * s.timeStep.toNat ≤ x.toNat ∧ x.toNat ≤ k * s.timeStep.toNat + s.timeStep.toNat - 1
      ∧ k * s.timeStep.toNat ≤ y.toNat ∧ y.toNat ≤ k * s.timeStep.toNat + s.timeStep.toNat - 1 := by
  constructor
  · intro heq
    obtain ⟨hxlow, hxhigh⟩ := (transform_toNat_eq_iff htyp hstep x _).mp rfl
    exact ⟨_, hxlow, hxhigh, (transform_toNat_eq_iff htyp hstep y _).mp (congrArg BitVec.toNat heq.symm)⟩
  · rintro ⟨k, hxlow, hxhigh, hy⟩
    have hxk := (transform_toNat_eq_iff htyp hstep x k).mpr ⟨hxlow, hxhigh⟩
    exact BitVec.eq_of_toNat_eq (hxk.trans ((transform_toNat_eq_iff htyp hstep y k).mpr hy).symm)

end

/-- `GEN` reads a supplied counter only through the transform. -/
theorem exec_gen_supplied {s : State} (hready : s.ready = true) {x y : DWord} (hxy : s.transform x = s.transform y) :
    ∃ t u, exec (.gen false) { s with opa := x } = .next t ∧ exec (.gen false) { s with opa := y } = .next u
      ∧ t = { u with opa := x } := by
  have hcounter : State.effectiveCounter { s with opa := x } false = State.effectiveCounter { s with opa := y } false := hxy
  refine ⟨_, _, exec_gen_ready false hready, exec_gen_ready false hready, ?_⟩
  rw [hcounter]
  rfl

/-- Settles O52: the effective counter is the number of the interval of `STEP` seconds. -/
theorem transformIntervals : Obligations.TransformIntervals := by
  intro s x y htyp hstep
  refine ⟨transform_eq_iff htyp hstep x y, fun k hxlow hxhigh hylow hyhigh hready => ?_, fun hfirst => ?_,
    fun hone => ?_, fun hthirty => ?_⟩
  · exact exec_gen_supplied hready ((transform_eq_iff htyp hstep x y).mpr ⟨k, hxlow, hxhigh, hylow, hyhigh⟩)
  · exact BitVec.eq_of_toNat_eq ((transform_toNat_eq_iff htyp hstep x 0).mpr (by omega))
  · rw [transform_totp htyp, hone]
    exact BitVec.udiv_one
  · simp only [transform_totp htyp, hthirty]
    decide

end Sys2Proof.Machine

namespace Sys2Proof.Machine

/-! ### The engine's turn in a step (R96, R101, R262): O5, O7, O8 -/

/-- A scheduled turn of the engine is its turn over the state whose agenda has lost it. -/
theorem step_engine {s : State} {rest : List Turn} (h : s.agenda = .engine :: rest) :
    step s = engineTurn { s with agenda := rest } :=
  step_cons h

/-- Settles O5: either agenda gives the engine the turn, and the word in flight decodes. -/
theorem stepRunsPendingCommand : Obligations.StepRunsPendingCommand := by
  intro s w i hb hpending hd
  refine ⟨fun hnil => ?_, fun rest hengine => ?_⟩
  · rw [step_nil hnil]
    exact engineTurn_of_decode hb hpending hd
  · rw [step_engine hengine]
    exact engineTurn_of_decode hb hpending hd

theorem engineTurn_idle {s : State} (hb : s.busy = false) : engineTurn s = .next s := by
  rw [engineTurn, hb, if_neg Bool.false_ne_true]

/-- Settles O8: the engine's turn is not enabled while `BUSY = 0`. -/
theorem idleEngineChangesNothing : Obligations.IdleEngineChangesNothing := by
  intro s hb
  refine ⟨fun hnil => ?_, fun rest hengine => ?_⟩
  · rw [step_nil hnil]
    exact engineTurn_idle hb
  · rw [step_engine hengine]
    exact engineTurn_idle hb

/-- A word that satisfies no row of R95 does not decode. -/
theorem decode_error_of_no_row {w : Word} (h : ∀ r ∈ opcodeTable, r.accepts w = false) : ∃ e, decode w = .error e := by
  cases hd : decode w with
  | error e => exact ⟨e, rfl⟩
  | ok i =>
    obtain ⟨r, hr, hacc⟩ := (decodeFollowsOpcodeTable w).2 ⟨i, hd⟩
    exact absurd (h r hr) (by simp [hacc])

/-- The engine's turn over an illegal word in flight records `IllegalCommand` (R96, R255). -/
theorem engineTurn_of_illegal {s : State} {w : Word} (hb : s.busy = true) (hpending : s.pending = some w)
    (h : ∀ r ∈ opcodeTable, r.accepts w = false) : engineTurn s = .next (s.afterError 0x10) := by
  obtain ⟨e, hd⟩ := decode_error_of_no_row h
  simp only [engineTurn, State.commandWord, complete, hb, hpending, hd, if_true, completeIllegal_eq]

/-- Settles O7: no row accepts the word, so it does not decode. -/
theorem illegalWordCompletes : Obligations.IllegalWordCompletes := by
  intro s w rest hb hpending h
  refine ⟨fun hnil => ?_, fun hengine => ?_⟩
  · rw [step_nil hnil]
    exact engineTurn_of_illegal hb hpending h
  · rw [step_engine hengine]
    exact engineTurn_of_illegal hb hpending h

/-! ### What every completion leaves behind (R262, R263, R265): O9, O10, O12 -/

/-- The two ways in which a command in flight over `s` ends: an error over `s` itself, or a success over a state with the
command's writes. -/
inductive Completion (s : State) : State → Prop
  | error {code : Byte} (hcode : code ≠ 0) : Completion s (s.afterError code)
  | success {r : State} (hr : KeepsFixedFields s r) : Completion s r.afterSuccess

theorem exec_completion (i : Instr) (s : State) : ∃ t, exec i s = .next t ∧ Completion s t := by
  rcases exec_completes i s with ⟨code, -, hcode, h⟩ | ⟨r, h, hr⟩
  · exact ⟨_, h, .error hcode⟩
  · exact ⟨_, h, .success hr⟩

/-- The engine's turn while `BUSY` is a completion. -/
theorem engineTurn_completion {s t : State} (hb : s.busy = true) (h : engineTurn s = .next t) : Completion s t := by
  rcases engineTurn_cases s with ⟨hidle, -⟩ | ⟨-, -, he⟩ | ⟨w, e, -, -, -, he⟩ | ⟨w, i, -, -, -, he⟩
  · exact absurd (hidle.symm.trans hb) Bool.false_ne_true
  · rw [he] at h
    cases h
  · rw [he] at h
    cases h
    exact .error (by decide)
  · obtain ⟨t', ht', hc⟩ := exec_completion i s
    rw [he, ht'] at h
    cases h
    exact hc

section
variable {s t : State}

theorem Completion.busy (h : Completion s t) : t.busy = false := by cases h <;> rfl

theorem Completion.pending (h : Completion s t) : t.pending = none := by cases h <;> rfl

theorem Completion.par (h : Completion s t) : t.par = s.par := by
  cases h with
  | error => rfl
  | success hr => exact hr.par

theorem Completion.inten (h : Completion s t) : t.inten = s.inten := by
  cases h with
  | error => rfl
  | success hr => exact hr.inten

theorem Completion.tsamp (h : Completion s t) : t.tsamp = s.tsamp := by
  cases h with
  | error => rfl
  | success hr => exact hr.tsamp

/-- The events of a completion are those of its code (R28, R262). -/
theorem Completion.intstat (h : Completion s t) : t.intstat = s.intstat ||| completionEvents t.err := by
  cases h with
  | @error code hcode => exact congrArg (s.intstat ||| ·) (if_neg hcode).symm
  | success hr => exact congrArg (· ||| 0b01) hr.intstat

/-- A completion that records an error is one over the state before it (R263). -/
theorem Completion.eq_afterError (h : Completion s t) (herr : t.err ≠ 0) : t = s.afterError t.err := by
  cases h with
  | error => rfl
  | success => exact absurd rfl herr

end

theorem completionEvents_done (e : Byte) : (completionEvents e).getLsbD 0 = true := by
  unfold completionEvents
  split <;> rfl

theorem completionEvents_err (e : Byte) : (completionEvents e).getLsbD 1 = decide (e ≠ 0) := by
  unfold completionEvents
  split
  case isTrue h => exact (decide_eq_false fun hne => hne h).symm
  case isFalse h => exact (decide_eq_true h).symm

/-- A completion sets `INTSTAT.DONE`. -/
theorem Completion.done {s t : State} (h : Completion s t) : t.intstat.getLsbD 0 = true := by
  rw [h.intstat, BitVec.getLsbD_or, completionEvents_done, Bool.or_true]

/-- A completion sets `INTSTAT.ERR` exactly when the code it records is not 0. -/
theorem Completion.err_event {s t : State} (h : Completion s t) :
    t.intstat.getLsbD 1 = (s.intstat.getLsbD 1 || decide (t.err ≠ 0)) := by
  rw [h.intstat, BitVec.getLsbD_or, completionEvents_err]

/-- Settles O9: what every `Completion` leaves behind. -/
theorem everyCommandCompletes : Obligations.EveryCommandCompletes := by
  intro i s
  obtain ⟨t, ht, hc⟩ := exec_completion i s
  exact ⟨t, ht, hc.busy, hc.pending, hc.done, hc.err_event, hc.inten, hc.tsamp, hc.par⟩

/-- Settles O10: a non-zero code tells the completion of an error from that of a success. -/
theorem failedCommandLeavesNoTrace : Obligations.FailedCommandLeavesNoTrace :=
  fun _ _ hb hturn herr => (engineTurn_completion hb hturn).eq_afterError herr

/-- Settles O12: a completion sets `INTSTAT.DONE` and keeps `INTEN`. -/
theorem interruptOutput : Obligations.InterruptOutput := by
  refine ⟨fun _ => rfl, fun s t hb henabled hturn => ?_, fun s hdisabled => ?_⟩
  · have hc := engineTurn_completion hb hturn
    rw [irq, hc.done, hc.inten, henabled, Bool.and_self, Bool.true_or]
  · rw [irq, hdisabled]
    simp

/-! ### Host turns in a step (R61, R62, R63, R259): O19 -/

/-- An access does not depend on the turns still to be taken. -/
theorem memRead_with_agenda (s : State) (agenda : List Turn) (a : Offset) (n : Nat) :
    memRead { s with agenda := agenda } a n = memRead s a n := rfl

theorem regWrite_with_agenda (s : State) (agenda : List Turn) (v : Word) (t : DWord) (r : Reg) :
    regWrite { s with agenda := agenda } v t r = (regWrite s v t r).map fun s' => { s' with agenda := agenda } := by
  cases r <;> rfl

/-- A write leaves the turns still to be taken as they are, and does not depend on them. -/
theorem memWrite_with_agenda (s : State) (agenda : List Turn) (a : Offset) (n : Nat) (v : Word) (t : DWord) :
    memWrite { s with agenda := agenda } a n v t = (memWrite s a n v t).map fun s' => { s' with agenda := agenda } := by
  have hacc : refused { s with agenda := agenda } true a n = refused s true a n := rfl
  simp only [memWrite, hacc]
  cases refused s true a n with
  | true => rfl
  | false =>
    cases locate s.par a.toNat with
    | reg r => exact regWrite_with_agenda s agenda v t r
    | buf => rfl
    | unmapped => rfl

theorem hostRead_of_some {s : State} {a : Offset} {n : Nat} {v : Word} (h : memRead s a n = some v) :
    hostRead s a n = { s with reply := .data v } := by
  simp only [hostRead, h]

theorem hostRead_of_none {s : State} {a : Offset} {n : Nat} (h : memRead s a n = none) :
    hostRead s a n = { s with reply := .err } := by
  simp only [hostRead, h]

theorem hostWrite_of_none {s : State} {a : Offset} {n : Nat} {v : Word} {t : DWord} (h : memWrite s a n v t = none) :
    hostWrite s a n v t = { s with reply := .err } := by
  simp only [hostWrite, h]

/-- Settles O19: the access of a host turn is the one made before the turn is taken off the agenda. -/
theorem readsAndRefusalsChangeNothing : Obligations.ReadsAndRefusalsChangeNothing := by
  intro s a n rest
  refine ⟨fun v hagenda hread => ?_, fun hagenda hread => ?_, fun v t hagenda hwrite => ?_, fun v t s' hagenda hwrite => ?_⟩
  · rw [step_cons hagenda, takeTurn, hostRead_of_some ((memRead_with_agenda s rest a n).trans hread)]
  · rw [step_cons hagenda, takeTurn, hostRead_of_none ((memRead_with_agenda s rest a n).trans hread)]
  · have hnone : memWrite { s with agenda := rest } a n v t = none := by
      rw [memWrite_with_agenda, hwrite, Option.map_none]
    rw [step_cons hagenda, takeTurn, hostWrite_of_none hnone]
  · have hsome : memWrite { s with agenda := rest } a n v t = some { s' with agenda := rest } := by
      rw [memWrite_with_agenda, hwrite, Option.map_some]
    rw [step_cons hagenda, takeTurn, hostWrite_of_some hsome]

end Sys2Proof.Machine

namespace Sys2Proof.Machine

/-! ### The reset input (R280, R282): O16 -/

theorem driveReset_of_high {s : State} {level : Bool} (h : (level || s.rst) = true) :
    s.driveReset level = { State.resetWith s.par with rst := level, agenda := s.agenda } :=
  if_pos h

theorem driveReset_of_low {s : State} {level : Bool} (h : (level || s.rst) = false) : s.driveReset level = s :=
  if_neg (by rw [h]; exact Bool.false_ne_true)

/-- A step that drives the reset input does so over the state whose agenda has lost that turn. -/
theorem step_rst {s : State} {level : Bool} {rest : List Turn} (h : s.agenda = .rst level :: rest) :
    step s = .next (State.driveReset { s with agenda := rest } level) :=
  step_cons h

/-- The asserted reset input refuses every access (R282). -/
theorem refused_of_rst {s : State} (h : s.rst = true) (w : Bool) (a : Offset) (n : Nat) : refused s w a n = true := by
  rw [refused, h, Bool.or_true]

/-- Settles O16: an asserted input and its release are the high case of `driveReset`, an input that stays low is the other, and
an asserted input refuses by itself. -/
theorem resetDiscardsCommand : Obligations.ResetDiscardsCommand := by
  refine ⟨fun s rest hagenda => ?assert, fun s rest hagenda hrst => ?release, fun s rest hagenda hrst => ?low,
    fun s a n v t hrst => ?refusal⟩
  case assert => rw [step_rst hagenda, driveReset_of_high (Bool.true_or _)]
  case release => rw [step_rst hagenda, driveReset_of_high (s := { s with agenda := rest }) (level := false) hrst]
  case low => rw [step_rst hagenda, driveReset_of_low (s := { s with agenda := rest }) (level := false) hrst]
  case refusal =>
    exact ⟨memRead_eq_none_iff.mpr (refused_of_rst hrst false a n), memWrite_eq_none_iff.mpr (refused_of_rst hrst true a n)⟩

/-! ### `TSAMP` cannot be observed while the engine is idle (R44, R192, R284): O34 -/

/-- The next state `t'` hides the value `q` that `TSAMP` had where `t` is the next state for its true value: the two are equal, or
they differ in `TSAMP` alone and no command is in flight that could read it. -/
def HidesTsamp (q : DWord) (t t' : State) : Prop := t' = t ∨ (t' = { t with tsamp := q } ∧ t.busy = false)

section
variable {q : DWord} {t t' : State}

theorem HidesTsamp.reply_eq (h : HidesTsamp q t t') : t'.reply = t.reply := by
  obtain rfl | ⟨rfl, -⟩ := h <;> rfl

theorem HidesTsamp.irq_eq (h : HidesTsamp q t t') : irq t' = irq t := by
  obtain rfl | ⟨rfl, -⟩ := h <;> rfl

theorem HidesTsamp.with_reply (h : HidesTsamp q t t') (r : BusReply) :
    HidesTsamp q { t with reply := r } { t' with reply := r } := by
  obtain rfl | ⟨rfl, hb⟩ := h
  · exact .inl rfl
  · exact .inr ⟨rfl, hb⟩

end

section
variable {s : State}

/-- Of the registers only `CMD` touches `TSAMP`, and its write latches a new sample (R71). -/
theorem regWrite_hidesTsamp {s' : State} {v : Word} {time : DWord} {r : Reg} (hb : s.busy = false)
    (h : regWrite s v time r = some s') (q : DWord) :
    ∃ t', regWrite { s with tsamp := q } v time r = some t' ∧ HidesTsamp q s' t' := by
  cases r
  case cmd => cases h; exact ⟨_, rfl, .inl rfl⟩
  all_goals cases h
  all_goals exact ⟨_, rfl, .inr ⟨rfl, hb⟩⟩

theorem memWrite_hidesTsamp {s' : State} {a : Offset} {n : Nat} {v : Word} {time : DWord} (hb : s.busy = false)
    (h : memWrite s a n v time = some s') (q : DWord) :
    ∃ t', memWrite { s with tsamp := q } a n v time = some t' ∧ HidesTsamp q s' t' := by
  obtain ⟨hacc, hcase⟩ := memWrite_cases h
  have hacc' : refused { s with tsamp := q } true a n = false := hacc
  rcases hcase with ⟨r, hl, hr⟩ | ⟨b, hl, rfl⟩
  · obtain ⟨t', ht', hhides⟩ := regWrite_hidesTsamp hb hr q
    refine ⟨t', ?_, hhides⟩
    rw [memWrite_reg (s := { s with tsamp := q }) hl, hacc', if_neg Bool.false_ne_true, ht']
  · refine ⟨_, ?_, .inr ⟨rfl, hb⟩⟩
    simp only [memWrite, hacc', hl, Bool.false_eq_true, if_false]

theorem hostWrite_hidesTsamp (hb : s.busy = false) (a : Offset) (n : Nat) (v : Word) (time q : DWord) :
    HidesTsamp q (hostWrite s a n v time) (hostWrite { s with tsamp := q } a n v time) := by
  cases hw : memWrite s a n v time with
  | none =>
    have hw' : memWrite { s with tsamp := q } a n v time = none :=
      memWrite_eq_none_iff.mpr (memWrite_eq_none_iff.mp hw : refused s true a n = true)
    rw [hostWrite_of_none hw, hostWrite_of_none hw']
    exact .inr ⟨rfl, hb⟩
  | some s' =>
    obtain ⟨t', hw', hhides⟩ := memWrite_hidesTsamp hb hw q
    rw [hostWrite_of_some hw, hostWrite_of_some hw']
    exact hhides.with_reply .written

theorem hostRead_hidesTsamp (hb : s.busy = false) (a : Offset) (n : Nat) (q : DWord) :
    HidesTsamp q (hostRead s a n) (hostRead { s with tsamp := q } a n) := by
  cases hr : memRead s a n with
  | none =>
    rw [hostRead_of_none hr, hostRead_of_none (s := { s with tsamp := q }) hr]
    exact .inr ⟨rfl, hb⟩
  | some v =>
    rw [hostRead_of_some hr, hostRead_of_some (s := { s with tsamp := q }) hr]
    exact .inr ⟨rfl, hb⟩

theorem driveReset_hidesTsamp (hb : s.busy = false) (level : Bool) (q : DWord) :
    HidesTsamp q (s.driveReset level) (State.driveReset { s with tsamp := q } level) := by
  cases hlevel : level || s.rst with
  | true =>
    rw [driveReset_of_high hlevel, driveReset_of_high (s := { s with tsamp := q }) hlevel]
    exact .inl rfl
  | false =>
    rw [driveReset_of_low hlevel, driveReset_of_low (s := { s with tsamp := q }) hlevel]
    exact .inr ⟨rfl, hb⟩

theorem engineTurn_hidesTsamp {t : State} (hb : s.busy = false) (h : engineTurn s = .next t) (q : DWord) :
    ∃ t', engineTurn { s with tsamp := q } = .next t' ∧ HidesTsamp q t t' := by
  rw [engineTurn_idle hb] at h
  cases h
  exact ⟨_, engineTurn_idle hb, .inr ⟨rfl, hb⟩⟩

/-- No turn of any agent shows `TSAMP` while the engine is idle. -/
theorem takeTurn_hidesTsamp {t : State} {turn : Turn} (hb : s.busy = false) (h : takeTurn turn s = .next t) (q : DWord) :
    ∃ t', takeTurn turn { s with tsamp := q } = .next t' ∧ HidesTsamp q t t' := by
  cases turn with
  | engine => exact engineTurn_hidesTsamp hb h q
  | read a n => cases h; exact ⟨_, rfl, hostRead_hidesTsamp hb a n q⟩
  | write a n v time => cases h; exact ⟨_, rfl, hostWrite_hidesTsamp hb a n v time q⟩
  | rst level => cases h; exact ⟨_, rfl, driveReset_hidesTsamp hb level q⟩

theorem step_hidesTsamp {t : State} (hb : s.busy = false) (h : step s = .next t) (q : DWord) :
    ∃ t', step { s with tsamp := q } = .next t' ∧ HidesTsamp q t t' := by
  by_cases hs : s.agenda = []
  · rw [step_nil hs] at h
    rw [step_nil (s := { s with tsamp := q }) hs]
    exact engineTurn_hidesTsamp hb h q
  · obtain ⟨turn, rest, hs⟩ := List.exists_cons_of_ne_nil hs
    rw [step_cons hs] at h
    rw [step_cons (s := { s with tsamp := q }) hs]
    exact takeTurn_hidesTsamp (s := { s with agenda := rest }) hb h q

/-- `CLEAR` with no interrupt enabled, and the events then cleared, leaves the reset state but for `TSAMP` and the model's own
fields (R192, R284). -/
theorem zeroize_afterSuccess_eq_resetWith (hinten : s.inten = 0) : { s.zeroize.afterSuccess with intstat := 0 }
    = { State.resetWith s.par with tsamp := s.tsamp, rst := s.rst, agenda := s.agenda, reply := s.reply } := by
  rw [State.afterSuccess, State.zeroize, hinten]
  rfl

end

/-- Settles O34: `CLEAR` zeroises every other field, and no agent's turn over an idle engine shows `TSAMP`. -/
theorem clearedStateIsReset : Obligations.ClearedStateIsReset := by
  refine ⟨fun s t hinten hclear => ?_, fun s t q hb hstep => ?_⟩
  · rw [exec_clear] at hclear
    cases hclear
    exact zeroize_afterSuccess_eq_resetWith hinten
  · obtain ⟨t', ht', hhides⟩ := step_hidesTsamp hb hstep q
    exact ⟨t', ht', hhides.reply_eq, hhides.irq_eq, hhides⟩

end Sys2Proof.Machine
